-- ==== Sys2Proof/Word.lean ====
section
/-! DEFINITION. The word types of joydrone CORE, each a plain bit vector of the width the spec gives it. -/

namespace Sys2Proof

/-- A byte of the payload or of the frame (R18, R20). -/
abbrev Byte := BitVec 8

/-- A channel register as it is stored: CH_STORE_W = 12 bits (R4, R11). -/
abbrev Channel := BitVec 12

/-- A channel as it is packed: CH_FIELD_W = 11 bits (R4, R42). -/
abbrev Field := BitVec 11

/-- A command word `cmd[23:0]` (R60). -/
abbrev CommandWord := BitVec 24

/-- A response word `rsp[19:0]` (R66). -/
abbrev ResponseWord := BitVec 20

end Sys2Proof
end

