-- ==== Sys2Proof/Config.lean ====
section
/-! DEFINITION. The shapes of the core's internal arrays, as R4 fixes them. Nothing here is left open: the spec's
only open parameters are LAT(op), F_CLK and UPDATE_RATE, on which no rule depends (R4, R206; log entry 6), and
QROUND, which has a value and stands with the other protocol constants in Machine/Params.lean. -/

namespace Sys2Proof

/-- A list of known length as a vector. -/
def vectorOfList {A : Type} {n : Nat} (l : List A) (h : l.length = n) : Vector A n := ⟨⟨l⟩, h⟩

/-- The channel vector buffer: NCH = 16 registers of CH_STORE_W = 12 bits (R4, R11). -/
abbrev ChannelVector := Vector Channel 16

/-- The 16 values of CH_FIELD_W = 11 bits that the bit packer takes (R4, R121). -/
abbrev FieldVector := Vector Field 16

/-- The payload: PAYLOAD_BYTES = 24 bytes (R4, R18). -/
abbrev Payload := Vector Byte 24

/-- The frame: FRAME_BYTES = 28 bytes in wire order (R4, R20). -/
abbrev Frame := Vector Byte 28

end Sys2Proof
end

