-- ==== Sys2Proof/Syntax.lean ====
section
/-! DEFINITION. The twelve operations of R62, one constructor per row of spec/opcode_table.json. The operand types
have exactly the widths R63 gives the operands, so every term is the operation of some command word. -/

namespace Sys2Proof

/-- An operation with its operands (R62, R63). -/
inductive Instr where
  /-- BEGIN: start a new cycle (R160). -/
  | beginCycle
  /-- QAX s, v: quantize one axis sample into an axis channel; `v` holds the 16 data bits (R85). -/
  | qax (s : Fin 16) (v : BitVec 16)
  /-- LDCH i, v: load a raw 12-bit channel value (R86). -/
  | ldch (i : Fin 16) (v : Channel)
  /-- BTN b: take the next button, `true` when pressed (R104). -/
  | btn (b : Bool)
  /-- BEND: end of one controller's button list (R105). -/
  | bend
  /-- FILL: end of all buttons, midpoint filler (R106). -/
  | fill
  /-- PACK: channel vector to payload (R125). -/
  | pack
  /-- ASM: checksum and frame (R153). -/
  | asm
  /-- RDCH i: read one channel of this cycle (R162). -/
  | rdch (i : Fin 16)
  /-- RDP k: read one payload byte (R163). -/
  | rdp (k : Fin 32)
  /-- RDF k: read one frame byte (R164). -/
  | rdf (k : Fin 32)
  /-- STAT sel: read a status word, `false` for STAT 0 and `true` for STAT 1 (R161). -/
  | stat (sel : Bool)
  deriving DecidableEq, Repr

/-- The mnemonic of R62. -/
def Instr.mnemonic : Instr → String
  | .beginCycle => "BEGIN"
  | .qax _ _ => "QAX"
  | .ldch _ _ => "LDCH"
  | .btn _ => "BTN"
  | .bend => "BEND"
  | .fill => "FILL"
  | .pack => "PACK"
  | .asm => "ASM"
  | .rdch _ => "RDCH"
  | .rdp _ => "RDP"
  | .rdf _ => "RDF"
  | .stat _ => "STAT"

end Sys2Proof
end

