-- ==== Sys2Proof/WellFormed.lean ====
section
/-! DEFINITION. What is left to check of an operation once its operands have the widths of their fields: that an
index operand is in range (R63, stage 3 of R187). An operation that fails a check is decodable and takes the E_CFG
fault when its phase is admitted (log entry 11). -/

namespace Sys2Proof

/-- The index operand is one of the legal values of R63: QAX slot 0..5, RDP byte 0..23, RDF byte 0..27; the other
operations have no operand that can be out of range. -/
def Instr.WellFormed : Instr → Bool
  | .qax s _ => s.val ≤ 5
  | .rdp k => k.val ≤ 23
  | .rdf k => k.val ≤ 27
  | .beginCycle => true
  | .ldch _ _ => true
  | .btn _ => true
  | .bend => true
  | .fill => true
  | .pack => true
  | .asm => true
  | .rdch _ => true
  | .stat _ => true

end Sys2Proof
end

