-- ==== Sys2Proof/Decode.lean ====
section
/-! DEFINITION. The command word: decoder, opcode table and encoder (R60 to R64, R68). Decoding is a function of the
word alone (R51, R62). -/

namespace Sys2Proof

/-- The op field, cmd[23:20] (R60). -/
def opField (w : CommandWord) : BitVec 4 := w.extractLsb' 20 4

/-- The a field, cmd[19:16] (R60). -/
def aField (w : CommandWord) : BitVec 4 := w.extractLsb' 16 4

/-- The d field, cmd[15:0] (R60). -/
def dField (w : CommandWord) : BitVec 16 := w.extractLsb' 0 16

/-- Why a word encodes no operation (R64). -/
inductive DecodeError where
  /-- The opcode is 0x0, 0xD, 0xE or 0xF. -/
  | reservedOpcode (op : BitVec 4)
  /-- A must-be-zero field of a defined opcode is not zero. -/
  | nonzeroField (op : BitVec 4)
  deriving DecidableEq, Repr

/-- The a field as a channel index or axis slot, 0..15 (R63). -/
def indexOperand (w : CommandWord) : Fin 16 := ⟨(aField w).toNat, (aField w).isLt⟩

/-- d[4:0] as a byte index, 0..31 (R63 (e)). -/
def byteOperand (w : CommandWord) : Fin 32 :=
  ⟨((dField w).extractLsb' 0 5).toNat, ((dField w).extractLsb' 0 5).isLt⟩

/-- Answer `i` if the word's must-be-zero bits are zero, and reject by name otherwise (R61, R64). -/
def acceptIf (zero : Bool) (w : CommandWord) (i : Instr) : Except DecodeError Instr :=
  if zero then .ok i else .error (.nonzeroField (opField w))

/-- The decoder (R61 to R64), total on every 24-bit word. -/
def decode (w : CommandWord) : Except DecodeError Instr :=
  match (opField w).toNat with
  | 0x1 => acceptIf (aField w = 0 && dField w = 0) w .beginCycle
  | 0x2 => .ok (.qax (indexOperand w) (dField w))
  | 0x3 => acceptIf ((dField w).extractLsb' 12 4 = 0) w (.ldch (indexOperand w) ((dField w).extractLsb' 0 12))
  | 0x4 => acceptIf (aField w = 0 && (dField w).extractLsb' 1 15 = 0) w (.btn ((dField w).getLsbD 0))
  | 0x5 => acceptIf (aField w = 0 && dField w = 0) w .bend
  | 0x6 => acceptIf (aField w = 0 && dField w = 0) w .fill
  | 0x7 => acceptIf (aField w = 0 && dField w = 0) w .pack
  | 0x8 => acceptIf (aField w = 0 && dField w = 0) w .asm
  | 0x9 => acceptIf (dField w = 0) w (.rdch (indexOperand w))
  | 0xA => acceptIf (aField w = 0 && (dField w).extractLsb' 5 11 = 0) w (.rdp (byteOperand w))
  | 0xB => acceptIf (aField w = 0 && (dField w).extractLsb' 5 11 = 0) w (.rdf (byteOperand w))
  | 0xC => acceptIf ((aField w).extractLsb' 1 3 = 0 && dField w = 0) w (.stat ((aField w).getLsbD 0))
  | _ => .error (.reservedOpcode (opField w))

/-- A command word from its three fields, `op << 20 | a << 16 | d` (R60, R68). -/
def commandWord (op a : BitVec 4) (d : BitVec 16) : CommandWord := op ++ a ++ d

/-- The encoder (R62, R63, R68). -/
def encode : Instr → CommandWord
  | .beginCycle => commandWord 0x1 0 0
  | .qax s v => commandWord 0x2 (BitVec.ofNat 4 s.val) v
  | .ldch i v => commandWord 0x3 (BitVec.ofNat 4 i.val) (v.setWidth 16)
  | .btn b => commandWord 0x4 0 ((BitVec.ofBool b).setWidth 16)
  | .bend => commandWord 0x5 0 0
  | .fill => commandWord 0x6 0 0
  | .pack => commandWord 0x7 0 0
  | .asm => commandWord 0x8 0 0
  | .rdch i => commandWord 0x9 (BitVec.ofNat 4 i.val) 0
  | .rdp k => commandWord 0xA 0 (BitVec.ofNat 16 k.val)
  | .rdf k => commandWord 0xB 0 (BitVec.ofNat 16 k.val)
  | .stat sel => commandWord 0xC ((BitVec.ofBool sel).setWidth 4) 0

/-- A row of the opcode map: a word encodes the row's operation exactly when `cmd & mask = pattern` (R62). -/
structure OpcodeRow where
  mnemonic : String
  pattern : CommandWord
  mask : CommandWord
  deriving DecidableEq, Repr

/-- The opcode map of R62, row by row. -/
def opcodeTable : List OpcodeRow :=
  [ ⟨"BEGIN", 0x100000, 0xFFFFFF⟩, ⟨"QAX", 0x200000, 0xF00000⟩, ⟨"LDCH", 0x300000, 0xF0F000⟩,
    ⟨"BTN", 0x400000, 0xFFFFFE⟩, ⟨"BEND", 0x500000, 0xFFFFFF⟩, ⟨"FILL", 0x600000, 0xFFFFFF⟩,
    ⟨"PACK", 0x700000, 0xFFFFFF⟩, ⟨"ASM", 0x800000, 0xFFFFFF⟩, ⟨"RDCH", 0x900000, 0xF0FFFF⟩,
    ⟨"RDP", 0xA00000, 0xFFFFE0⟩, ⟨"RDF", 0xB00000, 0xFFFFE0⟩, ⟨"STAT", 0xC00000, 0xFEFFFF⟩ ]

/-- The command word whose low `nbits` bits are those of `w`, every bit above them zero (log entry 12). -/
def tableWord (nbits w : Nat) : CommandWord := BitVec.ofNat 24 (w % 2 ^ nbits)

/-- The instruction the decoder reads from the word with bits `w`, for the host's check against the opcode table. -/
def decodeTableWord (nbits w : Nat) : Option Instr :=
  match decode (tableWord nbits w) with
  | .ok i => some i
  | .error _ => none

end Sys2Proof
end

