-- ==== Sys2Proof/Machine/Params.lean ====
section
/-! DEFINITION. The protocol constants of R4 that the operations use (hardwired, no address, R21). -/

namespace Sys2Proof.Machine

/-- CH_MIN, lowest channel value of the usable span. -/
def chMin : Nat := 172

/-- CH_MAX, highest channel value of the usable span. -/
def chMax : Nat := 1811

/-- CH_SPAN = CH_MAX - CH_MIN. -/
def chSpan : Nat := 1639

/-- CH_MID, the midpoint filler (R103). -/
def chMid : Nat := 991

/-- AX_MAX, normalisation constant of the transform. -/
def axMax : Nat := 32767

/-- AX_SPAN = 2 * AX_MAX, the denominator of the integer transform. -/
def axSpan : Nat := 65534

/-- QROUND, the rounding offset of the integer transform: 0, floor (R80, D6; log entry 5). -/
def qround : Nat := 0

/-- The largest value the 11-bit field carries (R14 (b)). -/
def fieldMax : Nat := 2047

/-- SYNC, the address byte (R48). -/
def sync : Byte := 0xC8

/-- FRAME_LEN, the length field (R151). -/
def frameLen : Byte := 0x1A

/-- FRAME_TYPE, the "channels" frame-type code (R150). -/
def frameType : Byte := 0x16

/-- CRC_POLY, the polynomial with its x^8 term implicit (R141, R144). -/
def crcPoly : Byte := 0xD5

/-- CRC_INIT, the initial value of the accumulator (R142). -/
def crcInit : Byte := 0x00

/-- CRC_XOROUT, no final XOR (R4, R142). -/
def crcXorOut : Byte := 0x00

end Sys2Proof.Machine
end

