-- ==== Sys2Proof/Machine/Checksum.lean ====
section
/-! DEFINITION. checksum_unit: CRC-8 with polynomial 0xD5 (R140 to R144). It has no operation of its own (R145). -/

namespace Sys2Proof.Machine

/-- One bit step: the high bit is tested before the shift, the polynomial XORed after it (R141). -/
def crcShift (c : Byte) : Byte := if c.getLsbD 7 then (c <<< 1) ^^^ crcPoly else c <<< 1

/-- `crc8_update` of R141: XOR the byte in, then 8 bit steps. -/
def crc8Update (c b : Byte) : Byte := Nat.repeat crcShift 8 (c ^^^ b)

/-- `crc8` of R142: the bytes in sequence order from CRC_INIT, no final XOR. -/
def crc8 (bs : List Byte) : Byte := bs.foldl crc8Update crcInit ^^^ crcXorOut

end Sys2Proof.Machine
end

