-- ==== Sys2Proof/Machine/State.lean ====
section
/-! DEFINITION. The state of joydrone CORE: the ten elements of R10 (`Arch`) and the core's two ports seen at
transaction level (R67). Plain data throughout. -/

namespace Sys2Proof.Machine

/-- PHASE, the sequencing state (R15). The encodings 5, 6 and 7 are never held (R15, V6), so they are no value
of this type (log entry 7). -/
inductive Phase where
  /-- 0: no cycle begun since reset. -/
  | idle
  /-- 1: cycle begun, the channel vector is being written. -/
  | map
  /-- 2: PAY holds the payload of this cycle's channel vector. -/
  | packed
  /-- 3: FRM holds the frame of this cycle. -/
  | done
  /-- 4: the cycle is rejected. -/
  | rej
  deriving DecidableEq, Repr

/-- SLOT, the next channel index a bank will take, 6..16 (R17). The other 5-bit values are never held (V7), so
they are no value of this type (log entry 7). -/
inductive Slot where
  /-- SLOT = 6 + j, a channel index 6..15. -/
  | free (j : Fin 10)
  /-- SLOT = 16, every slot is used. -/
  | full
  deriving DecidableEq, Repr

/-- What reaches the core from outside between two operations: a command word (R67) or a reset (R200). -/
inductive HostEvent where
  /-- A command word accepted on the command port. -/
  | command (w : CommandWord)
  /-- `rst` active. -/
  | reset
  deriving DecidableEq, Repr

/-- The complete architectural state: the ten elements of R10 and nothing else. -/
structure Arch where
  /-- CH, the channel vector buffer (R11). -/
  ch : ChannelVector
  /-- CHV: bit i is 1 exactly when CH[i] has been written since the last BEGIN or reset (R12). -/
  chv : BitVec 16
  /-- PHASE (R15). -/
  phase : Phase
  /-- ERR: bit 0 E_CFG, bit 1 E_DOM, bit 2 E_OP, bit 3 E_SEQ (R16). -/
  err : BitVec 4
  /-- SLOT (R17). -/
  slot : Slot
  /-- BPOS, buttons already taken into the open bank, 0..10 (R17). -/
  bpos : Fin 11
  /-- MASK, the mask of the open bank (R17). -/
  mask : BitVec 11
  /-- PAY (R18). -/
  pay : Payload
  /-- CRCA (R19). -/
  crca : Byte
  /-- FRM (R20). -/
  frm : Frame
  deriving DecidableEq, Repr

/-- The machine: the architectural state and the two ports. `input` holds the host events still to come, the next
one first; `responses` holds the response words given so far, oldest first (R66, R67; log entry 1). -/
structure State extends Arch where
  input : List HostEvent
  responses : List ResponseWord
  deriving DecidableEq, Repr

/-- A stop of the machine. There is none: every fault of the core is a fault entry after which it goes on, and
"The core never halts" (R188, R189), so nothing raises a constructor of this type (log entry 8). -/
inductive Fault where
  deriving DecidableEq, Repr

/-- An instruction the model gives no meaning. -/
inductive Refusal where
  /-- Raised by a refused arm of `exec` only; no arm is refused. Safe: the machine stops. -/
  | notModelled (mnemonic : String)
  deriving DecidableEq, Repr

/-- What a step or a meaning answers. -/
abbrev Result := Host.Outcome State Fault Refusal

/-- The architectural state after reset (R25, R200). CH, PAY, CRCA and FRM are unspecified there and cannot be
observed before they are rewritten; zero is the model's choice (DESIGN CHOICE, unsafe, log entry 3). -/
def Arch.reset : Arch where
  ch := Vector.replicate 16 0
  chv := 0
  phase := .idle
  err := 0
  slot := .free 0
  bpos := 0
  mask := 0
  pay := Vector.replicate 24 0
  crca := 0
  frm := Vector.replicate 28 0

/-- The machine right after reset: no event to come, no response given. -/
def State.reset : State := { toArch := Arch.reset, input := [], responses := [] }

end Sys2Proof.Machine
end

