-- ==== Sys2Proof/Machine/Operands.lean ====
section
/-! DEFINITION. Operand forms: how an index or data operand of R63 is read by the operations. -/

namespace Sys2Proof.Machine

/-- QAX's slot as an axis channel, none for the slots 6..15 that do not exist (R63 (a), R85). -/
def axisSlot? (s : Fin 16) : Option (Fin 16) := if s.val ≤ 5 then some s else none

/-- RDP's operand as a payload byte index, none for 24..31 (R63 (e), R163). -/
def payloadIndex? (k : Fin 32) : Option (Fin 24) := if h : k.val ≤ 23 then some ⟨k.val, by omega⟩ else none

/-- RDF's operand as a frame byte index, none for 28..31 (R63 (e), R164). -/
def frameIndex? (k : Fin 32) : Option (Fin 28) := if h : k.val ≤ 27 then some ⟨k.val, by omega⟩ else none

/-- `s16(d)`: the 16 data bits read as a two's complement number (R6, R63 (a)). -/
def s16 (d : BitVec 16) : Int := if d.toNat < 32768 then d.toNat else d.toNat - 65536

/-- A button as one bit of an 11-bit mask, `b << pos` (R104). -/
def buttonBit (b : Bool) (pos : Fin 11) : BitVec 11 := if b then BitVec.twoPow 11 pos.val else 0

/-- A slot still free as a channel index: 6 + j (R17). -/
def slotChannel (j : Fin 10) : Fin 16 := ⟨6 + j.val, by omega⟩

/-- SLOT as a number, 6..16 (R17). -/
def Slot.index : Slot → Nat
  | .free j => 6 + j.val
  | .full => 16

/-- SLOT + 1 for a slot still free (R107). -/
def slotAfter (j : Fin 10) : Slot := if h : j.val + 1 < 10 then .free ⟨j.val + 1, h⟩ else .full

end Sys2Proof.Machine
end

