-- ==== Sys2Proof/Machine/Ops.lean ====
section
/-! DEFINITION. The operations the meanings share: taking a host event, answering, fault entry and recovery, the one
write of a channel register, and reset. -/

namespace Sys2Proof.Machine

/-- A fault cause (R181). -/
inductive Cause where
  /-- E_CFG, configuration error (R182). -/
  | cfg
  /-- E_DOM, domain violation (R183). -/
  | dom
  /-- E_OP, illegal command word (R184). -/
  | op
  /-- E_SEQ, sequence error (R185). -/
  | seq
  deriving DecidableEq, Repr

/-- The ERR mask of a cause (R181). -/
def Cause.mask : Cause → BitVec 4
  | .cfg => 0x1
  | .dom => 0x2
  | .op => 0x4
  | .seq => 0x8

/-- The ERR mask of a set of causes, given as a list (R188). -/
def causesMask (fs : List Cause) : BitVec 4 := fs.foldr (fun f m => f.mask ||| m) 0

/-- The response word `err ++ rdata` (R66). -/
def responseWord (err : BitVec 4) (rdata : BitVec 16) : ResponseWord := err ++ rdata

/-- Give the response with `rdata` and the ERR of the state, which is ERR after the command (R66). -/
def respond (rdata : BitVec 16) (s : State) : State :=
  { s with responses := s.responses ++ [responseWord s.err rdata] }

/-- An operation completes: its writes are in `s`, and its response is given (R7, R66). -/
def complete (rdata : BitVec 16) (s : State) : Result := .next (respond rdata s)

/-- The writes of fault entry: ERR accumulates, PHASE becomes REJ, no other element changes (R188). -/
def faultEntry (fs : List Cause) (s : State) : State :=
  { s with err := s.err ||| causesMask fs, phase := .rej }

/-- TAKING A FAULT: `raise F` of R188, the one place where a fault is taken; the response has rdata 0. -/
def raise (fs : List Cause) (s : State) : Result := .next (respond 0 (faultEntry fs s))

/-- RECOVERY, the return from the rejected phase and the start of every cycle: what BEGIN writes (R160, R189). The
data of CH, PAY, CRCA and FRM stay (R24). -/
def startCycle (s : State) : State :=
  { s with phase := .map, err := 0, chv := 0, slot := .free 0, bpos := 0, mask := 0 }

/-- The next host event and the state without it, if there is one (R67). -/
def takeEvent (s : State) : Option (HostEvent × State) :=
  match s.input with
  | [] => none
  | e :: rest => some (e, { s with input := rest })

/-- With no event to come the core waits, unchanged (R201; R192 (e); log entry 2). -/
def wait (s : State) : Result := .next s

/-- `rst`: the architectural state takes the reset values, no response is given (R200; log entry 4). -/
def applyReset (s : State) : Result := .next { s with toArch := Arch.reset }

/-- A command word that encodes no operation: E_OP in every phase (R64, R184). -/
def illegalWord (s : State) : Result := raise [.op] s

/-- A channel register's value (R11). -/
def readCh (i : Fin 16) (s : State) : Channel := s.ch[i]

/-- Whether a channel has been written in this cycle, CHV[i] (R12). -/
def written (i : Fin 16) (s : State) : Bool := s.chv[i]

/-- The one write of a channel register: every write of CH[i] sets CHV[i] (R12). -/
def writeCh (i : Fin 16) (v : Channel) (s : State) : State :=
  { s with ch := s.ch.set i.val v, chv := s.chv ||| BitVec.twoPow 16 i.val }

end Sys2Proof.Machine
end

