-- ==== Sys2Proof/Machine/Flags.lean ====
section
/-! DEFINITION. The checks that set ERR bits from the state, and the status words. The core has no condition codes
(R16). -/

namespace Sys2Proof.Machine

/-- Some channel has not been written in this cycle (R124 (a)). -/
def someUnwritten (s : State) : Bool := decide (∃ i : Fin 16, written i s = false)

/-- Some written channel does not fit the 11-bit field (R124 (b)). -/
def someTooWide (s : State) : Bool :=
  decide (∃ i : Fin 16, written i s = true ∧ fieldMax < (readCh i s).toNat)

/-- The causes PACK finds: both checks are evaluated, both may be reported (R124, R125, R187). -/
def packCauses (s : State) : List Cause :=
  (if someUnwritten s then [.cfg] else []) ++ (if someTooWide s then [.dom] else [])

/-- PHASE's 3-bit encoding (R15). -/
def phaseBits : Phase → BitVec 3
  | .idle => 0
  | .map => 1
  | .packed => 2
  | .done => 3
  | .rej => 4

/-- STAT 0: bits [2:0] PHASE, [7:3] SLOT, [11:8] BPOS, [15:12] zero (R22). -/
def statusWord0 (s : State) : BitVec 16 :=
  BitVec.ofNat 4 0 ++ BitVec.ofNat 4 s.bpos.val ++ BitVec.ofNat 5 s.slot.index ++ phaseBits s.phase

/-- STAT 1: bit i = CHV[i] (R22). -/
def statusWord1 (s : State) : BitVec 16 := s.chv

end Sys2Proof.Machine
end

