-- ==== Sys2Proof/Machine/Assembler.lean ====
section
/-! DEFINITION. frame_assembler: the frame's fields and the operation ASM (R150 to R155). -/

namespace Sys2Proof.Machine

/-- The checksum of a frame: over the type byte and the 24 payload bytes (R152). -/
def frameChecksum (p : Payload) : Byte := crc8 (frameType :: p.toList)

/-- The 28 bytes of the frame in wire order: address, length, type, payload, checksum (R48, R153). -/
def assemble (p : Payload) (crc : Byte) : Frame :=
  vectorOfList ([sync, frameLen, frameType] ++ p.toList ++ [crc]) (by simp)

/-- ASM (R153). -/
def execAsm (s : State) : Result :=
  if s.phase = .packed then
    complete 0 { s with crca := frameChecksum s.pay, frm := assemble s.pay (frameChecksum s.pay), phase := .done }
  else raise [.seq] s

end Sys2Proof.Machine
end

