-- ==== Sys2Proof/Machine/Buttons.lean ====
section
/-! DEFINITION. Button multiplexer and midpoint filler: bank_commit and the operations BTN, BEND and FILL (R101 to
R107). -/

namespace Sys2Proof.Machine

/-- The value of a bank: the literal sum 172 + mask, 12 bits, no wrap, no clamp (R101). -/
def bankValue (m : BitVec 11) : Channel := BitVec.ofNat 12 (chMin + m.toNat)

/-- `bank_commit(m)` with SLOT = 6 + j (R107). -/
def bankCommit (j : Fin 10) (m : BitVec 11) (s : State) : State :=
  { writeCh (slotChannel j) (bankValue m) s with slot := slotAfter j, bpos := 0, mask := 0 }

/-- The button's mask bit taken into the open bank, committing it at the 11th button (R104). -/
def takeButton (j : Fin 10) (b : Bool) (s : State) : State :=
  let m := s.mask ||| buttonBit b s.bpos
  if h : s.bpos.val < 10 then { s with mask := m, bpos := ⟨s.bpos.val + 1, by omega⟩ }
  else bankCommit j m s

/-- Close a partly filled bank if there is one: the common part of BEND and FILL (R105, R106). -/
def closeBank (s : State) : State :=
  match s.slot with
  | .free j => if 0 < s.bpos.val then bankCommit j s.mask s else s
  | .full => s

/-- The channel indices 6..15 in ascending order. -/
def bankSlots : List (Fin 16) := [6, 7, 8, 9, 10, 11, 12, 13, 14, 15]

/-- `for j = SLOT .. 15: CH[j] <- 991, CHV[j] <- 1` (R106). -/
def fillFrom (slot : Slot) (s : State) : State :=
  bankSlots.foldl (fun t j => if slot.index ≤ j.val then writeCh j (BitVec.ofNat 12 chMid) t else t) s

/-- BTN b (R104). -/
def execBtn (b : Bool) (s : State) : Result :=
  if s.phase = .map then
    match s.slot with
    | .full => complete 0 s
    | .free j => complete 0 (takeButton j b s)
  else raise [.seq] s

/-- BEND (R105). -/
def execBend (s : State) : Result :=
  if s.phase = .map then complete 0 (closeBank s)
  else raise [.seq] s

/-- FILL (R106). -/
def execFill (s : State) : Result :=
  if s.phase = .map then
    complete 0 { fillFrom (closeBank s).slot (closeBank s) with slot := .full, bpos := 0, mask := 0 }
  else raise [.seq] s

end Sys2Proof.Machine
end

