-- ==== Sys2Proof/Machine/Control.lean ====
section
/-! DEFINITION. Cycle control and read-out: the operations BEGIN, STAT, RDCH, RDP and RDF (R160 to R164). -/

namespace Sys2Proof.Machine

/-- BEGIN (R160): admitted in every phase, never faults. -/
def execBegin (s : State) : Result := complete 0 (startCycle s)

/-- STAT sel (R161): admitted in every phase, never faults. -/
def execStat (sel : Bool) (s : State) : Result :=
  complete (if sel then statusWord1 s else statusWord0 s) s

/-- RDCH i (R162). -/
def execRdch (i : Fin 16) (s : State) : Result :=
  if s.phase = .idle then raise [.seq] s
  else if written i s then complete ((readCh i s).setWidth 16) s
  else raise [.seq] s

/-- RDP k (R163). -/
def execRdp (k : Fin 32) (s : State) : Result :=
  if s.phase = .packed ∨ s.phase = .done then
    match payloadIndex? k with
    | none => raise [.cfg] s
    | some j => complete (s.pay[j].setWidth 16) s
  else raise [.seq] s

/-- RDF k (R164). -/
def execRdf (k : Fin 32) (s : State) : Result :=
  if s.phase = .done then
    match frameIndex? k with
    | none => raise [.cfg] s
    | some j => complete (s.frm[j].setWidth 16) s
  else raise [.seq] s

end Sys2Proof.Machine
end

