-- ==== Sys2Proof/Machine/Packer.lean ====
section
/-! DEFINITION. bit_packer: the source's algorithm and the operation PACK (R120 to R125). -/

namespace Sys2Proof.Machine

/-- `P[k] = P[k] | b`; the packer never forms an index outside 0..23 (R40). -/
def orByte (p : Payload) (k : Nat) (b : Byte) : Payload :=
  if h : k < 24 then p.set k (p[k] ||| b) else p

/-- One channel value at a bit offset, in two or three pieces (R121). -/
def packPieces (p : Payload) (bitOffset c : Nat) : Payload :=
  let byteIndex := bitOffset / 8
  let bitInByte := bitOffset % 8
  let n1 := 8 - bitInByte
  let rem := 11 - n1
  let n2 := min 8 rem
  let p1 := orByte p byteIndex (BitVec.ofNat 8 ((c % 2 ^ n1) <<< bitInByte))
  let p2 := orByte p1 (byteIndex + 1) (BitVec.ofNat 8 ((c >>> n1) % 2 ^ n2))
  if rem > 8 then orByte p2 (byteIndex + 2) (BitVec.ofNat 8 (c >>> (n1 + 8))) else p2

/-- The loop over the channels, ascending, with the running bit offset (R121). -/
def packFrom : List Field → Nat → Payload → Payload
  | [], _, p => p
  | c :: cs, bitOffset, p => packFrom cs (bitOffset + 11) (packPieces p bitOffset c.toNat)

/-- `pack` of R121: from a zero payload, every channel in order. -/
def pack (c : FieldVector) : Payload := packFrom c.toList 0 (Vector.replicate 24 0)

/-- The 11-bit fields of the channel registers; PACK takes them only when every register fits (R120, R124). -/
def channelFields (c : ChannelVector) : FieldVector :=
  vectorOfList (c.toList.map fun v => v.setWidth 11) (by simp)

/-- PACK (R125). -/
def execPack (s : State) : Result :=
  if s.phase = .map then
    match packCauses s with
    | [] => complete 0 { s with pay := pack (channelFields s.ch), phase := .packed }
    | f :: fs => raise (f :: fs) s
  else raise [.seq] s

end Sys2Proof.Machine
end

