-- ==== Sys2Proof/Machine/Quantizer.lean ====
section
/-! DEFINITION. channel_quantizer: the linear transform and the operations QAX and LDCH (R80 to R87). -/

namespace Sys2Proof.Machine

/-- The transform of R80 on a number: shift, low saturation, floor quotient, high saturation. -/
def quantizeLevel (v : Int) : Nat :=
  let t := v + axMax
  if t < 0 then chMin
  else
    let q := (t.toNat * chSpan + qround) / axSpan
    let r := chMin + q
    if r > chMax then chMax else r

/-- `quantize(v : s16) -> u11` of R80. -/
def quantize (v : BitVec 16) : Field := BitVec.ofNat 11 (quantizeLevel (s16 v))

/-- QAX s, v (R85). -/
def execQax (slot : Fin 16) (v : BitVec 16) (s : State) : Result :=
  if s.phase = .map then
    match axisSlot? slot with
    | none => raise [.cfg] s
    | some i => complete 0 (writeCh i ((quantize v).setWidth 12) s)
  else raise [.seq] s

/-- LDCH i, v (R86). -/
def execLdch (i : Fin 16) (v : Channel) (s : State) : Result :=
  if s.phase = .map then complete 0 (writeCh i v s)
  else raise [.seq] s

end Sys2Proof.Machine
end

