-- ==== Sys2Proof/Machine/Dispatch.lean ====
section
/-! DEFINITION. What each operation does: one arm per constructor, one direct call of its meaning. -/

namespace Sys2Proof.Machine

/-- Execute one operation: its writes and its response, or its fault entry. -/
def exec (i : Instr) (s : State) : Host.Outcome State Fault Refusal :=
  match i with
  | .beginCycle => Sys2Proof.Machine.execBegin s
  | .qax slot v => Sys2Proof.Machine.execQax slot v s
  | .ldch k v => Sys2Proof.Machine.execLdch k v s
  | .btn b => Sys2Proof.Machine.execBtn b s
  | .bend => Sys2Proof.Machine.execBend s
  | .fill => Sys2Proof.Machine.execFill s
  | .pack => Sys2Proof.Machine.execPack s
  | .asm => Sys2Proof.Machine.execAsm s
  | .rdch k => Sys2Proof.Machine.execRdch k s
  | .rdp k => Sys2Proof.Machine.execRdp k s
  | .rdf k => Sys2Proof.Machine.execRdf k s
  | .stat sel => Sys2Proof.Machine.execStat sel s

end Sys2Proof.Machine
end

