-- ==== Sys2Proof/Machine/Step.lean ====
section
/-! DEFINITION. One step: take the next host event and carry it out. Accept, execute and respond are one step (R7,
R67). -/

namespace Sys2Proof.Machine

/-- One step of the core. A command word is decoded first (R187 stage 1); a word that encodes no operation takes the
E_OP fault; a reset gives the reset state; with nothing to come the core waits. -/
def step (s : State) : Host.Outcome State Fault Refusal :=
  match takeEvent s with
  | none => wait s
  | some (.reset, t) => applyReset t
  | some (.command w, t) =>
    match decode w with
    | .ok i => exec i t
    | .error _ => illegalWord t

/-- `s` with the command word of bits `w` as its next host event, before all others: the core fetches nothing, its
host presents each command (R51, R67; log entry 2). -/
def State.withFetchWord (s : State) (nbits w : Nat) : State :=
  { s with input := .command (tableWord nbits w) :: s.input }

end Sys2Proof.Machine
end

