-- ==== Sys2Proof/Safety.lean ====
section
/-! DEFINITION. The terms claims are stated in: what a completed and a faulted command leave, the admission and
check-order tables, runs, the invariant of the machine, what a host can tell two states apart by, and the end of a
cycle. -/

namespace Sys2Proof.Machine

/-- The state after a command whose writes are in `s` and which returns `rdata`: one response word, err in bits
[19:16] and rdata in bits [15:0], is given after every other (R66). -/
def State.answered (rdata : BitVec 16) (s : State) : State :=
  { s with responses := s.responses ++ [s.err ++ rdata] }

/-- The state after fault entry with the ERR mask `m` from `s`: ERR accumulates, PHASE is REJ, the response carries the
new ERR and rdata 0, nothing else changes (R188). -/
def State.faulted (m : BitVec 4) (s : State) : State :=
  { s with err := s.err ||| m, phase := .rej, responses := s.responses ++ [(s.err ||| m) ++ 0#16] }

/-- The admission table, row by row (R165). -/
def admits : Instr → Phase → Bool
  | .beginCycle, _ => true
  | .stat _, _ => true
  | .qax _ _, p => p = .map
  | .ldch _ _, p => p = .map
  | .btn _, p => p = .map
  | .bend, p => p = .map
  | .fill, p => p = .map
  | .pack, p => p = .map
  | .asm, p => p = .packed
  | .rdch _, p => p ≠ .idle
  | .rdp _, p => p = .packed || p = .done
  | .rdf _, p => p = .done

/-- Stage 4 of the check order: the state-dependent checks (R187). -/
def stateChecks (i : Instr) (s : State) : BitVec 4 :=
  match i with
  | .rdch k => if s.chv[k] then 0x0 else 0x8
  | .pack =>
    (if ∃ k : Fin 16, s.chv[k] = false then 0x1 else 0x0) |||
      (if ∃ k : Fin 16, s.chv[k] = true ∧ 2047 < s.ch[k].toNat then 0x2 else 0x0)
  | .beginCycle | .qax _ _ | .ldch _ _ | .btn _ | .bend | .fill | .asm | .rdp _ | .rdf _ | .stat _ => 0x0

/-- The ERR mask of the fault an operation raises, 0 for none: stages 2 to 4, the first that finds a cause (R187). -/
def faultMask (i : Instr) (s : State) : BitVec 4 :=
  if admits i s.phase = false then 0x8
  else if i.WellFormed = false then 0x1
  else stateChecks i s

/-- The operations that return data: RDCH, RDP, RDF and STAT (R47 (c)). -/
def readsOut : Instr → Bool
  | .rdch _ | .rdp _ | .rdf _ | .stat _ => true
  | .beginCycle | .qax _ _ | .ldch _ _ | .btn _ | .bend | .fill | .pack | .asm => false

/-- The operations that write channel registers (R26). -/
def writesChannels : Instr → Bool
  | .qax _ _ | .ldch _ _ | .btn _ | .bend | .fill => true
  | .beginCycle | .pack | .asm | .rdch _ | .rdp _ | .rdf _ | .stat _ => false

/-- The operations that write SLOT, BPOS and MASK besides BEGIN (R26). -/
def writesBank : Instr → Bool
  | .btn _ | .bend | .fill => true
  | .beginCycle | .qax _ _ | .ldch _ _ | .pack | .asm | .rdch _ | .rdp _ | .rdf _ | .stat _ => false

/-- Several operations one after another, stopping at a stop (R49). -/
def execAll : List Instr → State → Result
  | [], s => .next s
  | i :: is, s =>
    match exec i s with
    | .next t => execAll is t
    | .fault f => .fault f
    | .refused r => .refused r

/-- `n` steps, stopping at a stop. -/
def runSteps : Nat → State → Result
  | 0, s => .next s
  | n + 1, s =>
    match step s with
    | .next t => runSteps n t
    | .fault f => .fault f
    | .refused r => .refused r

/-- The frame of a vector of 11-bit channel values: packed, checksummed and assembled (R48). -/
def frameOf (c : FieldVector) : Frame := assemble (pack c) (frameChecksum (pack c))

/-- A cycle that has ended successfully (R207). -/
abbrev State.succeeded (s : State) : Prop := s.phase = .done

/-- A cycle that has ended unsuccessfully, rejected (R207). -/
abbrev State.rejected (s : State) : Prop := s.phase = .rej

/-- The invariant of the machine. -/
structure State.Inv (s : State) : Prop where
  /-- PHASE = REJ if and only if ERR is not 0 (R16). -/
  rejected_iff : s.phase = .rej ↔ s.err ≠ 0
  /-- MASK's bits at and above BPOS are clear (R17). -/
  mask_above : ∀ i : Fin 11, s.bpos.val ≤ i.val → s.mask[i] = false
  /-- SLOT = 16 implies BPOS = 0 (R105). -/
  full_closed : s.slot = .full → s.bpos = 0
  /-- A bank slot below SLOT has been written in this cycle (R107, R12). -/
  slots_written : ∀ i : Fin 16, 6 ≤ i.val → i.val < s.slot.index → s.chv[i] = true
  /-- In IDLE nothing has been written and no bank is open (R15, R25). -/
  idle_clear : s.phase = .idle → s.chv = 0 ∧ s.slot = .free 0 ∧ s.bpos = 0 ∧ s.mask = 0
  /-- In PACKED and DONE every channel has a value of this cycle that fits the field (R124). -/
  vector_checked : s.phase = .packed ∨ s.phase = .done →
    ∀ i : Fin 16, s.chv[i] = true ∧ s.ch[i].toNat ≤ 2047
  /-- In PACKED and DONE, PAY is the payload of this cycle's channel vector (R15). -/
  payload_current : s.phase = .packed ∨ s.phase = .done → s.pay = pack (channelFields s.ch)
  /-- In DONE, FRM is the frame of PAY and CRCA its checksum (R15, R19). -/
  frame_current : s.phase = .done → s.frm = assemble s.pay (frameChecksum s.pay) ∧ s.crca = s.frm[27]

/-- Two states no sequence of commands can tell apart by its responses: they agree on everything but the data that
CHV and PHASE gate (R12, R18, R19, R20, R24). -/
structure Indist (s t : State) : Prop where
  phase : s.phase = t.phase
  err : s.err = t.err
  chv : s.chv = t.chv
  slot : s.slot = t.slot
  bpos : s.bpos = t.bpos
  mask : s.mask = t.mask
  input : s.input = t.input
  responses : s.responses = t.responses
  /-- A channel written in this cycle has one value. -/
  ch : ∀ i : Fin 16, s.chv[i] = true → s.ch[i] = t.ch[i]
  /-- The payload is readable in PACKED and DONE. -/
  pay : s.phase = .packed ∨ s.phase = .done → s.pay = t.pay
  /-- The frame is readable in DONE. -/
  frm : s.phase = .done → s.frm = t.frm

end Sys2Proof.Machine
end

