-- ==== Sys2Proof/Certificates/Slice0/Obligations.lean ====
section
/-! DEFINITION. The statements for the provers, each from a numbered rule of spec/ or derived from several. -/

open Sys2Proof Sys2Proof.Machine

/-! ### Reset and the step -/

/-- R25: every element the spec gives a reset value has it after reset. -/
def Obligations.ResetStateValues : Prop :=
  State.reset.phase = .idle ∧ State.reset.err = 0b0000 ∧ (∀ i : Fin 16, State.reset.chv[i] = false) ∧
    State.reset.slot.index = 6 ∧ State.reset.bpos.val = 0 ∧ State.reset.mask = 0

/-- R200: a reset between two operations gives the reset values whatever the state was; no response is given and the
host's later commands are still to come. -/
def Obligations.ResetEventGivesResetState : Prop :=
  ∀ (s : State) (rest : List HostEvent), ∃ t : State, step { s with input := .reset :: rest } = .next t ∧
    t.phase = .idle ∧ t.err = 0 ∧ t.chv = 0 ∧ t.slot.index = 6 ∧ t.bpos.val = 0 ∧ t.mask = 0 ∧
    t.input = rest ∧ t.responses = s.responses

/-- R201: with no command to come the core waits, unchanged. -/
def Obligations.WaitsWithoutCommand : Prop :=
  ∀ s : State, s.input = [] → step s = .next s

/-- R7, R67: a command word that decodes to `i` is taken from the stream and the step is `exec` of `i`. -/
def Obligations.StepRunsDecodedCommand : Prop :=
  ∀ (s : State) (w : CommandWord) (i : Instr) (rest : List HostEvent), decode w = .ok i →
    step { s with input := .command w :: rest } = exec i { s with input := rest }

/-- R64, R184: a word that matches no row of the opcode map faults with E_OP in every phase; nothing else happens. -/
def Obligations.UnmatchedWordFaults : Prop :=
  ∀ (s : State) (w : CommandWord) (rest : List HostEvent), (∀ r ∈ opcodeTable, w &&& r.mask ≠ r.pattern) →
    step { s with input := .command w :: rest } = .next (State.faulted 0x4 { s with input := rest })

/-- R189, "The core never halts": every step, from every state and with every event, answers a next state. -/
def Obligations.StepNeverStops : Prop :=
  ∀ s : State, ∃ t : State, step s = .next t

/-! ### Encoding -/

/-- Decoding an encoded operation gives it back, every operand at every value (R62, R63). -/
def Obligations.DecodeInvertsEncode : Prop :=
  ∀ i : Instr, decode (encode i) = .ok i

/-- A word that decodes is the encoding of what it decodes to: no word has a second spelling (R61, R64). -/
def Obligations.EncodeInvertsDecode : Prop :=
  ∀ (w : CommandWord) (i : Instr), decode w = .ok i → encode i = w

/-- R62: a word encodes the operation of a row exactly when `cmd & mask = match`, and the rows are disjoint. -/
def Obligations.DecodeFollowsOpcodeMap : Prop :=
  (∀ (w : CommandWord) (r : OpcodeRow), r ∈ opcodeTable →
    ((∃ i : Instr, decode w = .ok i ∧ i.mnemonic = r.mnemonic) ↔ w &&& r.mask = r.pattern)) ∧
  (∀ (w : CommandWord) (r q : OpcodeRow), r ∈ opcodeTable → q ∈ opcodeTable →
    w &&& r.mask = r.pattern → w &&& q.mask = q.pattern → r = q)

/-- R63: how each operand is taken from the fields a = cmd[19:16] and d = cmd[15:0]. -/
def Obligations.OperandsTakenFromFields : Prop :=
  ∀ (w : CommandWord) (i : Instr), decode w = .ok i →
    match i with
    | .qax s v => s.val = w.toNat / 2 ^ 16 % 16 ∧
        s16 v = (if w.toNat % 2 ^ 16 < 32768 then ((w.toNat % 2 ^ 16 : Nat) : Int)
          else ((w.toNat % 2 ^ 16 : Nat) : Int) - 65536)
    | .ldch k v => k.val = w.toNat / 2 ^ 16 % 16 ∧ v.toNat = w.toNat % 2 ^ 12 ∧ w.toNat / 2 ^ 12 % 16 = 0
    | .btn b => (b = true ↔ w.toNat % 2 = 1)
    | .rdch k => k.val = w.toNat / 2 ^ 16 % 16
    | .rdp k => k.val = w.toNat % 2 ^ 5
    | .rdf k => k.val = w.toNat % 2 ^ 5
    | .stat sel => (sel = true ↔ w.toNat / 2 ^ 16 % 2 = 1) ∧ w.toNat / 2 ^ 17 % 8 = 0
    | .beginCycle | .bend | .fill | .pack | .asm => w.toNat % 2 ^ 20 = 0

/-- Words written out in R68 and 95_test_vectors.md section 7 decode to the operation they stand for. -/
def Obligations.SampleWordsDecode : Prop :=
  decode 0x100000 = .ok .beginCycle ∧ decode 0x23FFFF = .ok (.qax 3 0xFFFF) ∧
    decode 0x3607FF = .ok (.ldch 6 2047) ∧ decode 0x400001 = .ok (.btn true) ∧
    decode 0x800000 = .ok .asm ∧ decode 0xB0001B = .ok (.rdf 27) ∧ decode 0xC10000 = .ok (.stat true)

/-! ### channel_quantizer -/

/-- R80: the transform as exact integer arithmetic, floor quotient, saturated on both sides. -/
def Obligations.QuantizeFormula : Prop :=
  ∀ v : BitVec 16, ((quantize v).toNat : Int) =
    if v.toInt + 32767 < 0 then 172 else min 1811 (172 + (v.toInt + 32767) * 1639 / 65534)

/-- R81: the endpoints are exact, and clamping the input to [-32767, 32767] instead of the output gives the same
function. -/
def Obligations.QuantizeSaturates : Prop :=
  (quantize (BitVec.ofInt 16 (-32768))).toNat = 172 ∧ (quantize (BitVec.ofInt 16 (-32767))).toNat = 172 ∧
    (quantize (BitVec.ofInt 16 32767)).toNat = 1811 ∧
    ∀ v : BitVec 16, ((quantize v).toNat : Int) =
      172 + (max (-32767) (min 32767 v.toInt) + 32767) * 1639 / 65534

/-- R83 (a): a larger sample never gives a smaller channel value. -/
def Obligations.QuantizeMonotone : Prop :=
  ∀ u v : BitVec 16, u.toInt ≤ v.toInt → (quantize u).toNat ≤ (quantize v).toNat

/-- R83 (c): exactly the 1640 values of the usable span are images. -/
def Obligations.QuantizeOntoUsableSpan : Prop :=
  ∀ c : Nat, (∃ v : BitVec 16, (quantize v).toNat = c) ↔ 172 ≤ c ∧ c ≤ 1811

/-- R83 (d): the inputs of each level. -/
def Obligations.QuantizeLevelInputs : Prop :=
  ∀ (v : BitVec 16) (n : Nat), n ≤ 1639 → v.toInt ≠ -32768 →
    ((quantize v).toNat = 172 + n ↔
      (n : Int) * 65534 ≤ (v.toInt + 32767) * 1639 ∧ (v.toInt + 32767) * 1639 < ((n : Int) + 1) * 65534)

/-- R85: QAX, every path. -/
def Obligations.QaxByRule : Prop :=
  ∀ (s : State) (k : Fin 16) (v : BitVec 16),
    (s.phase ≠ .map → exec (.qax k v) s = .next (s.faulted 0x8)) ∧
    (s.phase = .map → 5 < k.val → exec (.qax k v) s = .next (s.faulted 0x1)) ∧
    (s.phase = .map → k.val ≤ 5 → ∃ t : State, exec (.qax k v) s = .next (t.answered 0) ∧
      t.ch[k].toNat = (quantize v).toNat ∧ t.chv[k] = true ∧
      (∀ j : Fin 16, j ≠ k → t.ch[j] = s.ch[j] ∧ t.chv[j] = s.chv[j]) ∧
      t = { s with ch := t.ch, chv := t.chv })

/-- R86: LDCH, every path; no range check is made on v. -/
def Obligations.LdchByRule : Prop :=
  ∀ (s : State) (k : Fin 16) (v : Channel),
    (s.phase ≠ .map → exec (.ldch k v) s = .next (s.faulted 0x8)) ∧
    (s.phase = .map → ∃ t : State, exec (.ldch k v) s = .next (t.answered 0) ∧
      t.ch[k] = v ∧ t.chv[k] = true ∧
      (∀ j : Fin 16, j ≠ k → t.ch[j] = s.ch[j] ∧ t.chv[j] = s.chv[j]) ∧
      t = { s with ch := t.ch, chv := t.chv })

/-! ### Button multiplexer -/

/-- R101, R109 (b): the literal sum, and where it leaves the usable span and the field range. -/
def Obligations.BankValueLiteral : Prop :=
  ∀ m : BitVec 11, (bankValue m).toNat = 172 + m.toNat ∧
    (1811 < (bankValue m).toNat ↔ 1640 ≤ m.toNat) ∧ (2047 < (bankValue m).toNat ↔ 1876 ≤ m.toNat)

/-- R107: bank_commit with SLOT = 6 + j. -/
def Obligations.BankCommitByRule : Prop :=
  ∀ (s : State) (j : Fin 10) (m : BitVec 11), ∃ t : State, bankCommit j m s = t ∧
    t.ch[slotChannel j].toNat = 172 + m.toNat ∧ t.chv[slotChannel j] = true ∧
    (∀ k : Fin 16, k ≠ slotChannel j → t.ch[k] = s.ch[k] ∧ t.chv[k] = s.chv[k]) ∧
    t.slot.index = (Slot.free j).index + 1 ∧ t.bpos.val = 0 ∧ t.mask = 0 ∧
    t = { s with ch := t.ch, chv := t.chv, slot := t.slot, bpos := t.bpos, mask := t.mask }

/-- R104: BTN, every path: dropped, taken into the open bank, or closing it as the 11th button. -/
def Obligations.BtnByRule : Prop :=
  ∀ (s : State) (b : Bool) (j : Fin 10),
    (s.phase ≠ .map → exec (.btn b) s = .next (s.faulted 0x8)) ∧
    (s.phase = .map → s.slot = .full → exec (.btn b) s = .next (s.answered 0)) ∧
    (s.phase = .map → s.slot = .free j → s.bpos.val = 10 →
      exec (.btn b) s =
        .next ((bankCommit j (s.mask ||| BitVec.ofNat 11 (b.toNat <<< s.bpos.val)) s).answered 0)) ∧
    (s.phase = .map → s.slot = .free j → s.bpos.val < 10 → ∃ t : State,
      exec (.btn b) s = .next (t.answered 0) ∧
        t.mask = s.mask ||| BitVec.ofNat 11 (b.toNat <<< s.bpos.val) ∧ t.bpos.val = s.bpos.val + 1 ∧
        t = { s with mask := t.mask, bpos := t.bpos })

/-- R105: BEND, every path. -/
def Obligations.BendByRule : Prop :=
  ∀ (s : State) (j : Fin 10),
    (s.phase ≠ .map → exec .bend s = .next (s.faulted 0x8)) ∧
    (s.phase = .map → s.slot = .free j → 0 < s.bpos.val →
      exec .bend s = .next ((bankCommit j s.mask s).answered 0)) ∧
    (s.phase = .map → s.slot = .full ∨ s.bpos.val = 0 → exec .bend s = .next (s.answered 0))

/-- R106: FILL, every path: the open bank takes slot SLOT if there is one, every later slot 991. -/
def Obligations.FillByRule : Prop :=
  ∀ s : State,
    (s.phase ≠ .map → exec .fill s = .next (s.faulted 0x8)) ∧
    (s.phase = .map → ∃ t : State, exec .fill s = .next (t.answered 0) ∧
      (∀ k : Fin 16, k.val < s.slot.index → t.ch[k] = s.ch[k] ∧ t.chv[k] = s.chv[k]) ∧
      (∀ k : Fin 16, s.slot.index ≤ k.val → t.chv[k] = true ∧
        t.ch[k].toNat = if k.val = s.slot.index ∧ 0 < s.bpos.val then 172 + s.mask.toNat else 991) ∧
      t = { s with ch := t.ch, chv := t.chv, slot := .full, bpos := 0, mask := 0 })

/-- R108: streaming two button lists gives the channels of the reference function of R100. -/
def Obligations.StreamedButtonsMatchReference : Prop :=
  ∀ (s : State) (left right : List Bool),
    s.phase = .map → s.slot = .free 0 → s.bpos = 0 → s.mask = 0 →
    ∃ t : State,
      execAll (left.map .btn ++ [.bend] ++ right.map .btn ++ [.bend, .fill]) s = .next t ∧
      (∀ j : Fin 10, t.ch[slotChannel j] = mapButtons left right j.val ∧ t.chv[slotChannel j] = true) ∧
      (∀ k : Fin 16, k.val < 6 → t.ch[k] = s.ch[k] ∧ t.chv[k] = s.chv[k]) ∧
      t.slot = .full ∧ t.bpos = 0 ∧ t.mask = 0 ∧
      t = { s with ch := t.ch, chv := t.chv, slot := t.slot, bpos := t.bpos, mask := t.mask,
                   responses := t.responses }

/-- R11: no operation but LDCH writes a value above 2219 into a channel register. -/
def Obligations.OnlyLdchWritesAbove2219 : Prop :=
  ∀ (i : Instr) (s t : State), (∀ k v, i ≠ .ldch k v) → exec i s = .next t →
    ∀ k : Fin 16, t.ch[k] = s.ch[k] ∨ (172 ≤ t.ch[k].toNat ∧ t.ch[k].toNat ≤ 2219)

/-! ### bit_packer -/

/-- R41, R42, R44: bit j of channel i is the payload bit at address 11i + j; the bits from 176 on are zero. -/
def Obligations.PackBitLayout : Prop :=
  ∀ cv : FieldVector,
    (∀ (i : Fin 16) (j : Fin 11), payloadBit (pack cv) ⟨11 * i.val + j.val, by omega⟩ = cv[i].getLsbD j.val) ∧
    (∀ a : Fin 192, 176 ≤ a.val → payloadBit (pack cv) a = false)

/-- R122: the payload is the sum of the channels' values at their places. -/
def Obligations.PackClosedForm : Prop :=
  ∀ cv : FieldVector, payloadInt (pack cv) = ∑ i : Fin 16, cv[i].toNat * 2 ^ (11 * i.val)

/-- R126: the round-trip law, and the image of pack is exactly the payloads whose last two bytes are zero. -/
def Obligations.PackRoundTrip : Prop :=
  (∀ cv : FieldVector, unpack (pack cv) = cv) ∧
  (∀ p : Payload, (∃ cv : FieldVector, pack cv = p) ↔ p[22] = 0 ∧ p[23] = 0)

/-- R127: changing one channel changes only its own 11 payload bits. -/
def Obligations.PackLanesIndependent : Prop :=
  ∀ (cv d : FieldVector) (i : Fin 16), (∀ k : Fin 16, k ≠ i → cv[k] = d[k]) →
    ∀ a : Fin 192, (a.val < 11 * i.val ∨ 11 * i.val + 11 ≤ a.val) →
      payloadBit (pack cv) a = payloadBit (pack d) a

/-- R124, R125: PACK, every path. Both checks range over all 16 channels and both are reported; when none fails, PAY is
the packed vector and every register's value is its field, so nothing is truncated. -/
def Obligations.PackByRule : Prop :=
  ∀ s : State,
    (s.phase ≠ .map → exec .pack s = .next (s.faulted 0x8)) ∧
    (s.phase = .map → (∃ k : Fin 16, s.chv[k] = false) →
      ¬(∃ k : Fin 16, s.chv[k] = true ∧ 2047 < s.ch[k].toNat) → exec .pack s = .next (s.faulted 0x1)) ∧
    (s.phase = .map → (∀ k : Fin 16, s.chv[k] = true) → (∃ k : Fin 16, 2047 < s.ch[k].toNat) →
      exec .pack s = .next (s.faulted 0x2)) ∧
    (s.phase = .map → (∃ k : Fin 16, s.chv[k] = false) →
      (∃ k : Fin 16, s.chv[k] = true ∧ 2047 < s.ch[k].toNat) → exec .pack s = .next (s.faulted 0x3)) ∧
    (s.phase = .map → (∀ k : Fin 16, s.chv[k] = true) → (∀ k : Fin 16, s.ch[k].toNat ≤ 2047) →
      ∃ cv : FieldVector, (∀ k : Fin 16, cv[k].toNat = s.ch[k].toNat) ∧
        exec .pack s = .next (State.answered 0 { s with pay := pack cv, phase := .packed }))

/-! ### checksum_unit -/

/-- R143 (e), R146: the table form of the per-byte step. -/
def Obligations.CrcTableForm : Prop :=
  ∀ c b : Byte, crc8Update c b = crcTable (c ^^^ b)

/-- R143 (c): the checksum is linear over equal-length sequences. -/
def Obligations.CrcLinear : Prop :=
  ∀ bs ds : List Byte, bs.length = ds.length →
    crc8 (List.zipWith (fun b d => b ^^^ d) bs ds) = crc8 bs ^^^ crc8 ds

/-- R143 (a), (b), (d): the empty sequence, leading zeros, and the receiver's self-check. -/
def Obligations.CrcSelfCheck : Prop :=
  crc8 [] = 0 ∧ ∀ bs : List Byte, crc8 (0 :: bs) = crc8 bs ∧ crc8 (bs ++ [crc8 bs]) = 0

/-- R144: the checksum is the remainder of B(x) · x^8 modulo G(x). Read in any commutative ring of characteristic 2
with a root x of G (the quotient by G among them), B(x) · x^8 equals the checksum's value. -/
def Obligations.CrcIsPolynomialRemainder : Prop :=
  ∀ (A : Type) [CommRing A] [CharP A 2] (x : A), x ^ 8 + x ^ 7 + x ^ 6 + x ^ 4 + x ^ 2 + 1 = 0 →
    ∀ bs : List Byte, bytesEval x bs * x ^ 8 = byteEval x (crc8 bs)

/-- R143 (f), (g): known checksums. -/
def Obligations.CrcKnownValues : Prop :=
  crc8 [0x31, 0x32, 0x33, 0x34, 0x35, 0x36, 0x37, 0x38, 0x39] = 0xBC ∧ crc8 [0x00] = 0x00 ∧
    crc8 [0x01] = 0xD5 ∧ crc8 [0x16] = 0xD3 ∧ crc8 [0x80] = 0xEF ∧ crc8 [0xFF] = 0xF9

/-! ### frame_assembler -/

/-- R153: ASM, every path. -/
def Obligations.AsmByRule : Prop :=
  ∀ s : State,
    (s.phase ≠ .packed → exec .asm s = .next (s.faulted 0x8)) ∧
    (s.phase = .packed → ∃ t : State, exec .asm s = .next (t.answered 0) ∧
      t.crca = crc8 (0x16 :: s.pay.toList) ∧
      t.frm[0] = 0xC8 ∧ t.frm[1] = 0x1A ∧ t.frm[2] = 0x16 ∧
      (∀ k : Fin 24, t.frm[3 + k.val] = s.pay[k]) ∧ t.frm[27] = t.crca ∧
      t = { s with crca := t.crca, frm := t.frm, phase := .done })

/-- R143 (d), R152, R154: a receiver that runs the checksum over type, payload and checksum byte of a finished frame
gets 0, and the frame's fixed fields are the protocol constants. -/
def Obligations.FinishedFrameIsValid : Prop :=
  ∀ s : State, s.Inv → s.succeeded →
    s.frm[0] = 0xC8 ∧ s.frm[1] = 0x1A ∧ s.frm[2] = 0x16 ∧ s.frm[25] = 0 ∧ s.frm[26] = 0 ∧
      crc8 (s.frm.toList.drop 2) = 0

/-! ### Cycle control and read-out -/

/-- R160: BEGIN, admitted in every phase, never faults. -/
def Obligations.BeginByRule : Prop :=
  ∀ s : State, ∃ t : State, exec .beginCycle s = .next (t.answered 0) ∧
    t.phase = .map ∧ t.err = 0 ∧ (∀ i : Fin 16, t.chv[i] = false) ∧ t.slot.index = 6 ∧
    t.bpos.val = 0 ∧ t.mask = 0 ∧
    t = { s with phase := t.phase, err := t.err, chv := t.chv, slot := t.slot, bpos := t.bpos, mask := t.mask }

/-- R161, R22: STAT, admitted in every phase, never faults, changes no state; the layout of both words. -/
def Obligations.StatByRule : Prop :=
  ∀ s : State,
    (∃ r : BitVec 16, exec (.stat false) s = .next (s.answered r) ∧
      r.toNat = s.bpos.val * 2 ^ 8 + s.slot.index * 2 ^ 3 +
        (match s.phase with | .idle => 0 | .map => 1 | .packed => 2 | .done => 3 | .rej => 4)) ∧
    (∃ r : BitVec 16, exec (.stat true) s = .next (s.answered r) ∧
      ∀ i : Fin 16, r[i] = s.chv[i])

/-- R162: RDCH, every path. -/
def Obligations.RdchByRule : Prop :=
  ∀ (s : State) (k : Fin 16),
    (s.phase = .idle ∨ s.chv[k] = false → exec (.rdch k) s = .next (s.faulted 0x8)) ∧
    (s.phase ≠ .idle → s.chv[k] = true →
      exec (.rdch k) s = .next (s.answered (BitVec.ofNat 16 s.ch[k].toNat)))

/-- R163: RDP, every path. -/
def Obligations.RdpByRule : Prop :=
  ∀ (s : State) (k : Fin 32),
    (s.phase ≠ .packed → s.phase ≠ .done → exec (.rdp k) s = .next (s.faulted 0x8)) ∧
    (s.phase = .packed ∨ s.phase = .done → 23 < k.val → exec (.rdp k) s = .next (s.faulted 0x1)) ∧
    (s.phase = .packed ∨ s.phase = .done → ∀ h : k.val ≤ 23,
      exec (.rdp k) s = .next (s.answered (BitVec.ofNat 16 (s.pay[k.val]'(by omega)).toNat)))

/-- R164: RDF, every path. -/
def Obligations.RdfByRule : Prop :=
  ∀ (s : State) (k : Fin 32),
    (s.phase ≠ .done → exec (.rdf k) s = .next (s.faulted 0x8)) ∧
    (s.phase = .done → 27 < k.val → exec (.rdf k) s = .next (s.faulted 0x1)) ∧
    (s.phase = .done → ∀ h : k.val ≤ 27,
      exec (.rdf k) s = .next (s.answered (BitVec.ofNat 16 (s.frm[k.val]'(by omega)).toNat)))

/-- R154, R164: in DONE, RDF 0 to RDF 27 hand over the 28 bytes in wire order and consume nothing. -/
def Obligations.FrameReadInWireOrder : Prop :=
  ∀ s : State, s.succeeded →
    execAll ((List.finRange 28).map fun k => Instr.rdf ⟨k.val, by omega⟩) s =
      .next { s with responses := s.responses ++ s.frm.toList.map fun b => s.err ++ (0#8 ++ b) }

/-- R165: the admission table. A cell "E_SEQ" faults with E_SEQ and does nothing else; in a cell "ok" the operation,
with an index in range, completes from some state of that phase. -/
def Obligations.AdmissionTable : Prop :=
  (∀ (i : Instr) (s : State), admits i s.phase = false → exec i s = .next (s.faulted 0x8)) ∧
  (∀ (i : Instr) (p : Phase), i.WellFormed = true → admits i p = true →
    ∃ (s t : State) (r : BitVec 16), s.phase = p ∧ s.err = 0 ∧ exec i s = .next (t.answered r) ∧ t.err = 0)

/-- R167: the phase graph, for operations and for events; every arrow not drawn does not exist. -/
def Obligations.PhaseGraph : Prop :=
  (∀ (i : Instr) (s t : State), exec i s = .next t →
    (i = .beginCycle ∧ t.phase = .map) ∨ (i = .pack ∧ s.phase = .map ∧ t.phase = .packed) ∨
    (i = .asm ∧ s.phase = .packed ∧ t.phase = .done) ∨
    (t.phase = .rej ∧ ∃ m : BitVec 4, m ≠ 0 ∧ t = s.faulted m) ∨
    (i ≠ .beginCycle ∧ i ≠ .pack ∧ i ≠ .asm ∧ t.phase = s.phase)) ∧
  (∀ (s t : State), step s = .next t →
    t.phase = s.phase ∨ t.phase = .map ∨ (s.phase = .map ∧ t.phase = .packed) ∨
      (s.phase = .packed ∧ t.phase = .done) ∨ t.phase = .rej ∨
      (t.phase = .idle ∧ s.input.head? = some .reset))

/-! ### Faults -/

/-- R187, R188: the first stage that finds a cause raises the fault, whose entry is precise; and when no stage finds
one the operation completes: one response, ERR as before (0 after BEGIN), no rejection. -/
def Obligations.FaultsFollowCheckOrder : Prop :=
  ∀ (i : Instr) (s : State),
    (faultMask i s ≠ 0 → exec i s = .next (s.faulted (faultMask i s))) ∧
    (faultMask i s = 0 → ∃ (t : State) (r : BitVec 16), exec i s = .next (t.answered r) ∧
      t.responses = s.responses ∧ t.err = (if i = .beginCycle then 0 else s.err) ∧
      (t.phase = .rej → s.phase = .rej) ∧ (r ≠ 0 → readsOut i = true) ∧ (readsOut i = true → t = s))

/-- R16: a set ERR bit stays set until BEGIN or reset, whatever commands follow. -/
def Obligations.ErrBitsSticky : Prop :=
  ∀ s t : State, step s = .next t → s.input.head? ≠ some .reset →
    s.input.head? ≠ some (.command 0x100000) → ∀ b : Fin 4, s.err[b] = true → t.err[b] = true

/-- R66: every command word, legal or not, gives exactly one response, after all earlier ones, with ERR after the
command; rdata is 0 unless a read-out operation completes, which changes nothing. -/
def Obligations.OneResponsePerCommand : Prop :=
  ∀ (s : State) (w : CommandWord) (rest : List HostEvent), s.input = .command w :: rest →
    ∃ (t : State) (r : BitVec 16), step s = .next t ∧ t.input = rest ∧
      t.responses = s.responses ++ [t.err ++ r] ∧
      (r ≠ 0 → (∃ i, decode w = .ok i ∧ readsOut i = true) ∧
        t = State.answered r { s with input := rest })

/-- R188: from REJ, no sequence of events without BEGIN or reset reaches PACKED or DONE, so no frame is produced in a
rejected cycle. -/
def Obligations.NoFrameAfterFault : Prop :=
  ∀ (n : Nat) (s t : State), s.rejected →
    (∀ e ∈ s.input, e ≠ .reset ∧ e ≠ .command 0x100000) → runSteps n s = .next t → t.rejected

/-- R26: the access matrix: which operation can change which element; on a fault only ERR and PHASE change. -/
def Obligations.AccessMatrix : Prop :=
  ∀ (i : Instr) (s t : State), exec i s = .next t →
    (t.ch ≠ s.ch → writesChannels i = true) ∧
    (t.chv ≠ s.chv → writesChannels i = true ∨ i = .beginCycle) ∧
    (t.slot ≠ s.slot ∨ t.bpos ≠ s.bpos ∨ t.mask ≠ s.mask → writesBank i = true ∨ i = .beginCycle) ∧
    (t.pay ≠ s.pay → i = .pack) ∧ (t.crca ≠ s.crca ∨ t.frm ≠ s.frm → i = .asm) ∧
    (faultMask i s ≠ 0 → t = { s with err := t.err, phase := t.phase, responses := t.responses }) ∧
    t.input = s.input

/-- R20, R155: within DONE the frame cannot change: only a reset event clears it (the model's reset contents), and
what leaves DONE makes it unreadable. -/
def Obligations.FrameImmutableInDone : Prop :=
  ∀ s t : State, s.succeeded → step s = .next t → s.input.head? ≠ some .reset →
    t.frm = s.frm ∧ (¬t.succeeded → ∀ k : Fin 32, exec (.rdf k) t = .next (t.faulted 0x8))

/-! ### Whole machine -/

/-- The invariant holds after reset. -/
def Obligations.InvariantAtReset : Prop :=
  State.reset.Inv

/-- Every step keeps the invariant, from every state that has it (R12, R15, R16, R17, R18, R19, R20). -/
def Obligations.StepKeepsInvariant : Prop :=
  ∀ s t : State, s.Inv → step s = .next t → t.Inv

/-- R24: after BEGIN no rule distinguishes the old data of CH, PAY, CRCA and FRM from any other. -/
def Obligations.BeginForgetsOldData : Prop :=
  ∀ (s : State) (ch : ChannelVector) (pay : Payload) (crca : Byte) (frm : Frame),
    ∃ t u : State, exec .beginCycle s = .next t ∧
      exec .beginCycle { s with ch := ch, pay := pay, crca := crca, frm := frm } = .next u ∧ Indist t u

/-- R12, R18, R20, R24: two states that differ only in data CHV and PHASE gate stay so, step by step, with the same
responses. -/
def Obligations.GatedDataUnobservable : Prop :=
  ∀ s t s' : State, Indist s t → step s = .next s' → ∃ t' : State, step t = .next t' ∧ Indist s' t'

/-- R25: the unspecified contents after reset are never observed: whatever they are, every stream of events gets the
same responses. The model's own choice of them (log entry 3) is of no consequence. -/
def Obligations.ResetContentsUnobservable : Prop :=
  ∀ (ch : ChannelVector) (pay : Payload) (crca : Byte) (frm : Frame) (events : List HostEvent) (n : Nat),
    ∃ t u : State, runSteps n { State.reset with input := events } = .next t ∧
      runSteps n { State.reset with ch := ch, pay := pay, crca := crca, frm := frm, input := events } = .next u ∧
      t.responses = u.responses ∧ t.phase = u.phase ∧ t.err = u.err

/-- R166: the canonical cycle, from any state and for every input: when every bank fits the field the cycle succeeds
and FRM is the frame of the quantized axes and the multiplexed buttons; otherwise the cycle is rejected with E_DOM by PACK
(R124, R125), and the ASM that follows adds E_SEQ (R153). -/
def Obligations.CanonicalCycle : Prop :=
  ∀ (s : State) (axes : Vector (BitVec 16) 6) (left right : List Bool), ∃ t : State,
    execAll ([.beginCycle] ++ (List.finRange 6).map (fun k => Instr.qax ⟨k.val, by omega⟩ axes[k]) ++
      left.map .btn ++ [.bend] ++ right.map .btn ++ [.bend, .fill, .pack, .asm]) s = .next t ∧
    ((∀ j : Fin 10, (mapButtons left right j.val).toNat ≤ 2047) →
      ∃ cv : FieldVector, t.succeeded ∧ t.err = 0 ∧ t.frm = frameOf cv ∧
        (∀ k : Fin 6, cv[k.val] = quantize axes[k]) ∧
        ∀ j : Fin 10, (cv[6 + j.val]).toNat = (mapButtons left right j.val).toNat) ∧
    ((∃ j : Fin 10, 2047 < (mapButtons left right j.val).toNat) → t.rejected ∧ t.err = 0xA)
end

