-- ==== Sys2Proof/Laws/State.lean ====
section
/-! SUPPORT. One lemma per field per named update of the state, each true by rfl, so that no later proof unfolds a
record update. -/

namespace Sys2Proof.Machine

section Updates

variable (s : State) (i : Fin 16) (v : Channel) (j : Fin 10) (m : BitVec 11) (r : BitVec 16)
variable (fs : List Cause) (e : BitVec 4)

@[simp] theorem respond_ch : (respond r s).ch = s.ch := rfl
@[simp] theorem respond_chv : (respond r s).chv = s.chv := rfl
@[simp] theorem respond_phase : (respond r s).phase = s.phase := rfl
@[simp] theorem respond_err : (respond r s).err = s.err := rfl
@[simp] theorem respond_slot : (respond r s).slot = s.slot := rfl
@[simp] theorem respond_bpos : (respond r s).bpos = s.bpos := rfl
@[simp] theorem respond_mask : (respond r s).mask = s.mask := rfl
@[simp] theorem respond_pay : (respond r s).pay = s.pay := rfl
@[simp] theorem respond_crca : (respond r s).crca = s.crca := rfl
@[simp] theorem respond_frm : (respond r s).frm = s.frm := rfl
@[simp] theorem respond_input : (respond r s).input = s.input := rfl
@[simp] theorem respond_responses : (respond r s).responses = s.responses ++ [responseWord s.err r] := rfl

@[simp] theorem State.answered_ch : (s.answered r).ch = s.ch := rfl
@[simp] theorem State.answered_chv : (s.answered r).chv = s.chv := rfl
@[simp] theorem State.answered_phase : (s.answered r).phase = s.phase := rfl
@[simp] theorem State.answered_err : (s.answered r).err = s.err := rfl
@[simp] theorem State.answered_slot : (s.answered r).slot = s.slot := rfl
@[simp] theorem State.answered_bpos : (s.answered r).bpos = s.bpos := rfl
@[simp] theorem State.answered_mask : (s.answered r).mask = s.mask := rfl
@[simp] theorem State.answered_pay : (s.answered r).pay = s.pay := rfl
@[simp] theorem State.answered_crca : (s.answered r).crca = s.crca := rfl
@[simp] theorem State.answered_frm : (s.answered r).frm = s.frm := rfl
@[simp] theorem State.answered_input : (s.answered r).input = s.input := rfl
@[simp] theorem State.answered_responses : (s.answered r).responses = s.responses ++ [s.err ++ r] := rfl

@[simp] theorem State.faulted_ch : (s.faulted e).ch = s.ch := rfl
@[simp] theorem State.faulted_chv : (s.faulted e).chv = s.chv := rfl
@[simp] theorem State.faulted_phase : (s.faulted e).phase = .rej := rfl
@[simp] theorem State.faulted_err : (s.faulted e).err = s.err ||| e := rfl
@[simp] theorem State.faulted_slot : (s.faulted e).slot = s.slot := rfl
@[simp] theorem State.faulted_bpos : (s.faulted e).bpos = s.bpos := rfl
@[simp] theorem State.faulted_mask : (s.faulted e).mask = s.mask := rfl
@[simp] theorem State.faulted_pay : (s.faulted e).pay = s.pay := rfl
@[simp] theorem State.faulted_crca : (s.faulted e).crca = s.crca := rfl
@[simp] theorem State.faulted_frm : (s.faulted e).frm = s.frm := rfl
@[simp] theorem State.faulted_input : (s.faulted e).input = s.input := rfl
@[simp] theorem State.faulted_responses : (s.faulted e).responses = s.responses ++ [(s.err ||| e) ++ 0#16] := rfl

@[simp] theorem faultEntry_ch : (faultEntry fs s).ch = s.ch := rfl
@[simp] theorem faultEntry_chv : (faultEntry fs s).chv = s.chv := rfl
@[simp] theorem faultEntry_phase : (faultEntry fs s).phase = .rej := rfl
@[simp] theorem faultEntry_err : (faultEntry fs s).err = s.err ||| causesMask fs := rfl
@[simp] theorem faultEntry_slot : (faultEntry fs s).slot = s.slot := rfl
@[simp] theorem faultEntry_bpos : (faultEntry fs s).bpos = s.bpos := rfl
@[simp] theorem faultEntry_mask : (faultEntry fs s).mask = s.mask := rfl
@[simp] theorem faultEntry_pay : (faultEntry fs s).pay = s.pay := rfl
@[simp] theorem faultEntry_crca : (faultEntry fs s).crca = s.crca := rfl
@[simp] theorem faultEntry_frm : (faultEntry fs s).frm = s.frm := rfl
@[simp] theorem faultEntry_input : (faultEntry fs s).input = s.input := rfl
@[simp] theorem faultEntry_responses : (faultEntry fs s).responses = s.responses := rfl

@[simp] theorem startCycle_ch : (startCycle s).ch = s.ch := rfl
@[simp] theorem startCycle_chv : (startCycle s).chv = 0 := rfl
@[simp] theorem startCycle_phase : (startCycle s).phase = .map := rfl
@[simp] theorem startCycle_err : (startCycle s).err = 0 := rfl
@[simp] theorem startCycle_slot : (startCycle s).slot = .free 0 := rfl
@[simp] theorem startCycle_bpos : (startCycle s).bpos = 0 := rfl
@[simp] theorem startCycle_mask : (startCycle s).mask = 0 := rfl
@[simp] theorem startCycle_pay : (startCycle s).pay = s.pay := rfl
@[simp] theorem startCycle_crca : (startCycle s).crca = s.crca := rfl
@[simp] theorem startCycle_frm : (startCycle s).frm = s.frm := rfl
@[simp] theorem startCycle_input : (startCycle s).input = s.input := rfl
@[simp] theorem startCycle_responses : (startCycle s).responses = s.responses := rfl

@[simp] theorem writeCh_ch : (writeCh i v s).ch = s.ch.set i.val v := rfl
@[simp] theorem writeCh_chv : (writeCh i v s).chv = s.chv ||| BitVec.twoPow 16 i.val := rfl
@[simp] theorem writeCh_phase : (writeCh i v s).phase = s.phase := rfl
@[simp] theorem writeCh_err : (writeCh i v s).err = s.err := rfl
@[simp] theorem writeCh_slot : (writeCh i v s).slot = s.slot := rfl
@[simp] theorem writeCh_bpos : (writeCh i v s).bpos = s.bpos := rfl
@[simp] theorem writeCh_mask : (writeCh i v s).mask = s.mask := rfl
@[simp] theorem writeCh_pay : (writeCh i v s).pay = s.pay := rfl
@[simp] theorem writeCh_crca : (writeCh i v s).crca = s.crca := rfl
@[simp] theorem writeCh_frm : (writeCh i v s).frm = s.frm := rfl
@[simp] theorem writeCh_input : (writeCh i v s).input = s.input := rfl
@[simp] theorem writeCh_responses : (writeCh i v s).responses = s.responses := rfl

@[simp] theorem bankCommit_ch : (bankCommit j m s).ch = s.ch.set (slotChannel j).val (bankValue m) := rfl
@[simp] theorem bankCommit_chv : (bankCommit j m s).chv = s.chv ||| BitVec.twoPow 16 (slotChannel j).val := rfl
@[simp] theorem bankCommit_phase : (bankCommit j m s).phase = s.phase := rfl
@[simp] theorem bankCommit_err : (bankCommit j m s).err = s.err := rfl
@[simp] theorem bankCommit_slot : (bankCommit j m s).slot = slotAfter j := rfl
@[simp] theorem bankCommit_bpos : (bankCommit j m s).bpos = 0 := rfl
@[simp] theorem bankCommit_mask : (bankCommit j m s).mask = 0 := rfl
@[simp] theorem bankCommit_pay : (bankCommit j m s).pay = s.pay := rfl
@[simp] theorem bankCommit_crca : (bankCommit j m s).crca = s.crca := rfl
@[simp] theorem bankCommit_frm : (bankCommit j m s).frm = s.frm := rfl
@[simp] theorem bankCommit_input : (bankCommit j m s).input = s.input := rfl
@[simp] theorem bankCommit_responses : (bankCommit j m s).responses = s.responses := rfl

end Updates

end Sys2Proof.Machine
end

