-- ==== Sys2Proof/Laws/Ops.lean ====
section
/-! SUPPORT. What each shared operation can do, said once: the writes of a channel register seen register by register,
fault entry, answering, taking an event, and what each meaning answers. -/

namespace Sys2Proof.Machine

/-! ### Answering and fault entry -/

theorem respond_eq_answered (r : BitVec 16) (s : State) : respond r s = s.answered r := rfl

theorem complete_eq (r : BitVec 16) (s : State) : complete r s = .next (s.answered r) := rfl

@[simp] theorem causesMask_nil : causesMask [] = 0 := rfl

@[simp] theorem causesMask_cons (f : Cause) (fs : List Cause) :
    causesMask (f :: fs) = f.mask ||| causesMask fs := rfl

theorem raise_eq (fs : List Cause) (s : State) : raise fs s = .next (s.faulted (causesMask fs)) := rfl

theorem raise_cfg (s : State) : raise [.cfg] s = .next (s.faulted 0x1) := rfl

theorem raise_op (s : State) : raise [.op] s = .next (s.faulted 0x4) := rfl

theorem raise_seq (s : State) : raise [.seq] s = .next (s.faulted 0x8) := rfl

/-! ### Channel registers -/

theorem writeCh_ch_self (s : State) (i : Fin 16) (v : Channel) : (writeCh i v s).ch[i] = v := by
  simp

theorem writeCh_ch_other (s : State) {i k : Fin 16} (v : Channel) (h : k ≠ i) :
    (writeCh i v s).ch[k] = s.ch[k] := by
  have h' : i.val ≠ k.val := fun e => h (Fin.ext e.symm)
  simp [Vector.getElem_set_ne _ _ h']

/-- CHV after a write: the written channel's bit is set, every other as before (R12). -/
theorem writeCh_chv_get (s : State) (i k : Fin 16) (v : Channel) :
    (writeCh i v s).chv[k] = (decide (i = k) || s.chv[k]) := by
  simp [BitVec.getElem_or, BitVec.getElem_twoPow, Fin.ext_iff, eq_comm, Bool.or_comm]

theorem writeCh_chv_self (s : State) (i : Fin 16) (v : Channel) : (writeCh i v s).chv[i] = true := by
  rw [writeCh_chv_get]; simp

theorem writeCh_chv_other (s : State) {i k : Fin 16} (v : Channel) (h : k ≠ i) :
    (writeCh i v s).chv[k] = s.chv[k] := by
  rw [writeCh_chv_get]; simp [Ne.symm h]

/-! ### The bank -/

@[simp] theorem slotChannel_val (j : Fin 10) : (slotChannel j).val = 6 + j.val := rfl

theorem slotAfter_index (j : Fin 10) : (slotAfter j).index = 7 + j.val := by
  unfold slotAfter
  split <;> simp only [Slot.index] <;> omega

theorem Slot.six_le_index (x : Slot) : 6 ≤ x.index := by
  cases x <;> simp [Slot.index]

theorem Slot.index_le_sixteen (x : Slot) : x.index ≤ 16 := by
  cases x <;> simp only [Slot.index] <;> omega

/-- The bank value is the literal sum (R101). -/
theorem bankValue_toNat (m : BitVec 11) : (bankValue m).toNat = chMin + m.toNat := by
  have := m.isLt
  simp only [bankValue, chMin, BitVec.toNat_ofNat]
  omega

/-! ### Events -/

theorem takeEvent_nil {s : State} (h : s.input = []) : takeEvent s = none := by
  simp [takeEvent, h]

theorem takeEvent_cons {s : State} {e : HostEvent} {rest : List HostEvent} (h : s.input = e :: rest) :
    takeEvent s = some (e, { s with input := rest }) := by
  simp [takeEvent, h]

/-- What a step does, by the next event: wait, reset, an operation, or an illegal word. -/
theorem step_cases (s : State) :
    (s.input = [] ∧ step s = .next s) ∨
    (∃ rest, s.input = .reset :: rest ∧
      step s = .next { s with input := rest, toArch := Arch.reset }) ∨
    (∃ w rest i, s.input = .command w :: rest ∧ decode w = .ok i ∧
      step s = exec i { s with input := rest }) ∨
    (∃ w rest e, s.input = .command w :: rest ∧ decode w = .error e ∧
      step s = .next (State.faulted 0x4 { s with input := rest })) := by
  rcases h : s.input with _ | ⟨_ | _, rest⟩
  · exact .inl ⟨rfl, by simp [step, takeEvent_nil h, wait]⟩
  · rename_i w
    rcases hd : decode w with e | i
    · exact .inr (.inr (.inr ⟨w, rest, e, rfl, hd, by simp [step, takeEvent_cons h, hd, illegalWord, raise_op]⟩))
    · exact .inr (.inr (.inl ⟨w, rest, i, rfl, hd, by simp [step, takeEvent_cons h, hd]⟩))
  · exact .inr (.inl ⟨rest, rfl, by simp [step, takeEvent_cons h, applyReset]⟩)

end Sys2Proof.Machine
end

