-- ==== Sys2Proof/Laws/Assembler.lean ====
section
/-! SUPPORT. The frame field by field (R48) and the checksum's small lemmas (R141, R142). -/

namespace Sys2Proof.Machine

theorem assemble_toList (p : Payload) (c : Byte) :
    (assemble p c).toList = [sync, frameLen, frameType] ++ p.toList ++ [c] := rfl

theorem assemble_get (p : Payload) (c : Byte) (k : Nat) (h : k < 28) :
    (assemble p c)[k] = ([sync, frameLen, frameType] ++ p.toList ++ [c])[k]'(by simpa using h) := rfl

theorem assemble_header (p : Payload) (c : Byte) :
    (assemble p c)[0] = sync ∧ (assemble p c)[1] = frameLen ∧ (assemble p c)[2] = frameType := ⟨rfl, rfl, rfl⟩

theorem assemble_payload (p : Payload) (c : Byte) (k : Fin 24) : (assemble p c)[3 + k.val] = p[k] := by
  have h : 3 + k.val < ([sync, frameLen, frameType] ++ p.toList).length := by simp; omega
  rw [assemble_get, List.getElem_append_left h, List.getElem_append_right (by simp)]
  simp

theorem assemble_crc (p : Payload) (c : Byte) : (assemble p c)[27] = c := by
  rw [assemble_get, List.getElem_append_right (by simp)]
  simp

theorem crc8_nil : crc8 [] = crcInit := rfl

/-- One more byte at the end of the sequence is one more step of the accumulator (R142). -/
theorem crc8_append_one (bs : List Byte) (b : Byte) : crc8 (bs ++ [b]) = crc8Update (crc8 bs) b := by
  simp [crc8, crcXorOut]

/-- The accumulator depends on its old value and the byte through their XOR only (R143 (e)). -/
theorem crc8Update_eq (c b : Byte) : crc8Update c b = crc8Update 0 (c ^^^ b) := by
  simp [crc8Update]

end Sys2Proof.Machine
end

