-- ==== Sys2Proof/Laws/Buttons.lean ====
section
/-! SUPPORT. The bank accumulator seen register by register: commit, close, and the filler loop. -/

namespace Sys2Proof.Machine

/-! ### bank_commit -/

theorem bankCommit_ch_self (j : Fin 10) (m : BitVec 11) (s : State) :
    (bankCommit j m s).ch[slotChannel j] = bankValue m := writeCh_ch_self s (slotChannel j) (bankValue m)

theorem bankCommit_ch_other {j : Fin 10} {k : Fin 16} (m : BitVec 11) (s : State) (h : k ≠ slotChannel j) :
    (bankCommit j m s).ch[k] = s.ch[k] := writeCh_ch_other s (bankValue m) h

theorem bankCommit_chv_self (j : Fin 10) (m : BitVec 11) (s : State) :
    (bankCommit j m s).chv[slotChannel j] = true := writeCh_chv_self s (slotChannel j) (bankValue m)

theorem bankCommit_chv_other {j : Fin 10} {k : Fin 16} (m : BitVec 11) (s : State) (h : k ≠ slotChannel j) :
    (bankCommit j m s).chv[k] = s.chv[k] := writeCh_chv_other s (bankValue m) h

theorem bankCommit_index (j : Fin 10) (m : BitVec 11) (s : State) :
    (bankCommit j m s).slot.index = 7 + j.val := by
  rw [bankCommit_slot, slotAfter_index]

/-! ### closeBank -/

/-- Either a partly filled bank is committed, or nothing happens. -/
theorem closeBank_cases (s : State) :
    (∃ j, s.slot = .free j ∧ 0 < s.bpos.val ∧ closeBank s = bankCommit j s.mask s) ∨
    ((s.slot = .full ∨ s.bpos.val = 0) ∧ closeBank s = s) := by
  unfold closeBank
  rcases h : s.slot with j | _
  · by_cases hb : 0 < s.bpos.val
    · exact .inl ⟨j, rfl, hb, by simp [hb]⟩
    · exact .inr ⟨.inr (by omega), by simp [hb]⟩
  · exact .inr ⟨.inl rfl, rfl⟩

/-! ### The filler loop -/

theorem mem_bankSlots (k : Fin 16) : k ∈ bankSlots ↔ 6 ≤ k.val := by
  revert k; decide

theorem fill_fold_get (slot : Slot) (l : List (Fin 16)) (s : State) (k : Fin 16) :
    (l.foldl (fun t j => if slot.index ≤ j.val then writeCh j (BitVec.ofNat 12 chMid) t else t) s).ch[k] =
      (if k ∈ l ∧ slot.index ≤ k.val then BitVec.ofNat 12 chMid else s.ch[k]) ∧
    (l.foldl (fun t j => if slot.index ≤ j.val then writeCh j (BitVec.ofNat 12 chMid) t else t) s).chv[k] =
      (decide (k ∈ l ∧ slot.index ≤ k.val) || s.chv[k]) := by
  induction l generalizing s with
  | nil => simp
  | cons a l ih =>
    rw [List.foldl_cons, (ih _).1, (ih _).2]
    by_cases ha : k = a
    · subst ha
      by_cases hs : slot.index ≤ k.val
      · rw [if_pos hs, writeCh_ch_self, writeCh_chv_self]; simp [hs]
      · rw [if_neg hs]; simp [hs]
    · by_cases hs : slot.index ≤ a.val
      · rw [if_pos hs, writeCh_ch_other s _ ha, writeCh_chv_other s _ ha]; simp [ha]
      · rw [if_neg hs]; simp [ha]

/-- FILL's loop gives 991 to every channel from SLOT on and leaves the others (R106). -/
theorem fillFrom_ch (slot : Slot) (s : State) (k : Fin 16) :
    (fillFrom slot s).ch[k] = if slot.index ≤ k.val then BitVec.ofNat 12 chMid else s.ch[k] := by
  have h := slot.six_le_index
  have e : (k ∈ bankSlots ∧ slot.index ≤ k.val) ↔ slot.index ≤ k.val := by rw [mem_bankSlots]; omega
  have := (fill_fold_get slot bankSlots s k).1
  simp only [e] at this
  exact this

/-- FILL's loop marks every channel from SLOT on as written (R106). -/
theorem fillFrom_chv (slot : Slot) (s : State) (k : Fin 16) :
    (fillFrom slot s).chv[k] = (decide (slot.index ≤ k.val) || s.chv[k]) := by
  have h := slot.six_le_index
  have e : (k ∈ bankSlots ∧ slot.index ≤ k.val) ↔ slot.index ≤ k.val := by rw [mem_bankSlots]; omega
  have := (fill_fold_get slot bankSlots s k).2
  simp only [e] at this
  exact this

/-- FILL's loop writes nothing but CH and CHV. -/
theorem fillFrom_frame (slot : Slot) (s : State) :
    fillFrom slot s = { s with ch := (fillFrom slot s).ch, chv := (fillFrom slot s).chv } := by
  unfold fillFrom
  induction bankSlots generalizing s with
  | nil => rfl
  | cons a l ih =>
    rw [List.foldl_cons, ih]
    split <;> rfl

end Sys2Proof.Machine
end

