-- ==== Sys2Proof/Laws/Decode.lean ====
section
/-! SUPPORT. The three fields of a command word and the word they make are inverse to each other (R60). -/

namespace Sys2Proof

/-- The word `op << 20 | a << 16 | d` as a number (R68). -/
theorem commandWord_toNat (op a : BitVec 4) (d : BitVec 16) :
    (commandWord op a d).toNat = op.toNat * 2 ^ 20 + a.toNat * 2 ^ 16 + d.toNat := by
  rw [commandWord, BitVec.toNat_append, ← Nat.shiftLeft_add_eq_or_of_lt d.isLt, BitVec.toNat_append,
    ← Nat.shiftLeft_add_eq_or_of_lt a.isLt, Nat.shiftLeft_eq, Nat.shiftLeft_eq]
  omega

theorem opField_toNat (w : CommandWord) : (opField w).toNat = w.toNat / 2 ^ 20 := by
  have := w.isLt
  rw [opField, BitVec.extractLsb'_toNat, Nat.shiftRight_eq_div_pow]
  omega

theorem aField_toNat (w : CommandWord) : (aField w).toNat = w.toNat / 2 ^ 16 % 2 ^ 4 := by
  rw [aField, BitVec.extractLsb'_toNat, Nat.shiftRight_eq_div_pow]

theorem dField_toNat (w : CommandWord) : (dField w).toNat = w.toNat % 2 ^ 16 := by
  rw [dField, BitVec.extractLsb'_toNat, Nat.shiftRight_zero]

@[simp] theorem opField_commandWord (op a : BitVec 4) (d : BitVec 16) : opField (commandWord op a d) = op := by
  apply BitVec.eq_of_toNat_eq
  rw [opField_toNat, commandWord_toNat]
  omega

@[simp] theorem aField_commandWord (op a : BitVec 4) (d : BitVec 16) : aField (commandWord op a d) = a := by
  apply BitVec.eq_of_toNat_eq
  rw [aField_toNat, commandWord_toNat]
  omega

@[simp] theorem dField_commandWord (op a : BitVec 4) (d : BitVec 16) : dField (commandWord op a d) = d := by
  apply BitVec.eq_of_toNat_eq
  rw [dField_toNat, commandWord_toNat]
  omega

/-- Every word is made of its three fields. -/
theorem commandWord_fields (w : CommandWord) : commandWord (opField w) (aField w) (dField w) = w := by
  apply BitVec.eq_of_toNat_eq
  rw [commandWord_toNat, opField_toNat, aField_toNat, dField_toNat]
  omega

theorem acceptIf_eq_ok {zero : Bool} {w : CommandWord} {i j : Instr} :
    acceptIf zero w i = .ok j ↔ zero = true ∧ i = j := by
  unfold acceptIf
  cases zero <;> simp

end Sys2Proof
end

