-- ==== Sys2Proof/Laws/Meanings.lean ====
section
/-! SUPPORT. One equation per operation: everything `exec` can answer for it, as completed and faulted states, so that
no later proof unfolds a meaning. -/

namespace Sys2Proof.Machine

theorem exec_begin (s : State) : exec .beginCycle s = .next ((startCycle s).answered 0) := rfl

theorem exec_qax (k : Fin 16) (v : BitVec 16) (s : State) :
    exec (.qax k v) s =
      if s.phase = .map then
        if k.val ≤ 5 then .next ((writeCh k ((quantize v).setWidth 12) s).answered 0) else .next (s.faulted 0x1)
      else .next (s.faulted 0x8) := by
  simp only [exec, execQax, axisSlot?, raise_cfg, raise_seq, complete_eq]
  by_cases h : k.val ≤ 5 <;> simp [h]

theorem exec_ldch (k : Fin 16) (v : Channel) (s : State) :
    exec (.ldch k v) s =
      if s.phase = .map then .next ((writeCh k v s).answered 0) else .next (s.faulted 0x8) := by
  simp only [exec, execLdch, raise_seq, complete_eq]

theorem exec_btn (b : Bool) (s : State) :
    exec (.btn b) s =
      if s.phase = .map then
        .next (State.answered 0 (match s.slot with
          | .full => s
          | .free j => takeButton j b s))
      else .next (s.faulted 0x8) := by
  simp only [exec, execBtn, raise_seq, complete_eq]
  cases s.slot <;> rfl

theorem exec_bend (s : State) :
    exec .bend s = if s.phase = .map then .next ((closeBank s).answered 0) else .next (s.faulted 0x8) := by
  simp only [exec, execBend, raise_seq, complete_eq]

theorem exec_fill (s : State) :
    exec .fill s =
      if s.phase = .map then
        .next (State.answered 0
          { fillFrom (closeBank s).slot (closeBank s) with slot := .full, bpos := 0, mask := 0 })
      else .next (s.faulted 0x8) := by
  simp only [exec, execFill, raise_seq, complete_eq]

/-- PACK's causes are the state-dependent checks of R187. -/
theorem packCauses_mask (s : State) : causesMask (packCauses s) = stateChecks .pack s := by
  simp only [packCauses, stateChecks, someUnwritten, someTooWide, written, readCh, fieldMax]
  by_cases h1 : ∃ i : Fin 16, s.chv[i] = false <;>
    by_cases h2 : ∃ i : Fin 16, s.chv[i] = true ∧ 2047 < s.ch[i].toNat <;>
    simp only [h1, h2, decide_true, decide_false, if_true, if_false] <;> rfl

theorem packCauses_nil (s : State) (h : stateChecks .pack s = 0) : packCauses s = [] := by
  rw [← packCauses_mask] at h
  revert h
  unfold packCauses
  split <;> split <;> simp [Cause.mask]

theorem exec_pack (s : State) :
    exec .pack s =
      if s.phase = .map then
        if stateChecks .pack s = 0 then
          .next (State.answered 0 { s with pay := pack (channelFields s.ch), phase := .packed })
        else .next (s.faulted (stateChecks .pack s))
      else .next (s.faulted 0x8) := by
  simp only [exec, execPack, raise_seq, complete_eq]
  by_cases h : stateChecks .pack s = 0
  · simp [h, packCauses_nil s h]
  · rw [← packCauses_mask] at h ⊢
    cases hc : packCauses s with
    | nil => simp [hc] at h
    | cons f fs => rw [hc] at h; simp only [raise_eq, h, if_false]

theorem exec_asm (s : State) :
    exec .asm s =
      if s.phase = .packed then
        .next (State.answered 0
          { s with crca := frameChecksum s.pay, frm := assemble s.pay (frameChecksum s.pay), phase := .done })
      else .next (s.faulted 0x8) := by
  simp only [exec, execAsm, raise_seq, complete_eq]

theorem exec_rdch (k : Fin 16) (s : State) :
    exec (.rdch k) s =
      if s.phase = .idle then .next (s.faulted 0x8)
      else if s.chv[k] = true then .next (s.answered (s.ch[k].setWidth 16))
      else .next (s.faulted 0x8) := by
  simp only [exec, execRdch, raise_seq, complete_eq]
  rfl

theorem exec_rdp (k : Fin 32) (s : State) :
    exec (.rdp k) s =
      if s.phase = .packed ∨ s.phase = .done then
        if h : k.val ≤ 23 then .next (s.answered ((s.pay[k.val]'(by omega)).setWidth 16))
        else .next (s.faulted 0x1)
      else .next (s.faulted 0x8) := by
  simp only [exec, execRdp, payloadIndex?, raise_seq, raise_cfg, complete_eq]
  by_cases h : k.val ≤ 23 <;> simp [h]

theorem exec_rdf (k : Fin 32) (s : State) :
    exec (.rdf k) s =
      if s.phase = .done then
        if h : k.val ≤ 27 then .next (s.answered ((s.frm[k.val]'(by omega)).setWidth 16))
        else .next (s.faulted 0x1)
      else .next (s.faulted 0x8) := by
  simp only [exec, execRdf, frameIndex?, raise_seq, raise_cfg, complete_eq]
  by_cases h : k.val ≤ 27 <;> simp [h]

theorem exec_stat (sel : Bool) (s : State) :
    exec (.stat sel) s = .next (s.answered (if sel then statusWord1 s else statusWord0 s)) := rfl

end Sys2Proof.Machine
end

