-- ==== Sys2Proof/Laws/Packer.lean ====
section
/-! SUPPORT. The bit packer seen bit by bit: one channel's pieces, said once for every bit of the payload. -/

namespace Sys2Proof.Machine

/-- ORing a byte in changes only that byte's bits. -/
theorem orByte_bit (p : Payload) {i k j : Nat} (b : Byte) (hi : i < 24) (hk : k < 24) :
    (orByte p i b)[k].getLsbD j = (p[k].getLsbD j || (decide (i = k) && b.getLsbD j)) := by
  simp only [orByte, hi, dif_pos, Vector.getElem_set]
  split
  · rename_i h; subst h; simp
  · rename_i h; simp [h]

/-- What one channel's pieces do to the payload: bit n of the value is ORed into the bit at address off + n, and no
other bit changes (R121, R123). -/
theorem packPieces_bit (p : Payload) {off c k j : Nat} (hoff : off ≤ 165) (hc : c < 2048) (hk : k < 24) (hj : j < 8) :
    (packPieces p off c)[k].getLsbD j =
      (p[k].getLsbD j || (decide (off ≤ 8 * k + j) && c.testBit (8 * k + j - off))) := by
  have hbig : ∀ n, 11 ≤ n → c.testBit n = false := fun n hn =>
    Nat.testBit_lt_two_pow (lt_of_lt_of_le hc (Nat.pow_le_pow_right (by norm_num) hn : 2 ^ 11 ≤ 2 ^ n))
  have main : (packPieces p off c)[k].getLsbD j = (p[k].getLsbD j || 
      (decide (off / 8 = k) && (decide (off % 8 ≤ j) && c.testBit (j - off % 8))) ||
      (decide (off / 8 + 1 = k) && c.testBit (8 - off % 8 + j)) ||
      (decide (off / 8 + 2 = k) && c.testBit (16 - off % 8 + j))) := by
    unfold packPieces
    dsimp only
    have e1 : (decide (j - off % 8 < 8 - off % 8)) = true := by simp; omega
    have hm : ∀ n2, (n2 = 8 ∨ (n2 = 11 - (8 - off % 8) ∧ n2 < 8 )) → ((c >>> (8 - off % 8)) % 2 ^ n2).testBit j = c.testBit (8 - off % 8 + j) := by
      intro n2 h
      rw [Nat.testBit_mod_two_pow, Nat.testBit_shiftRight]
      by_cases hjn : j < n2
      · simp [hjn]
      · rw [hbig (8 - off % 8 + j) (by omega)]; simp
    split
    · rw [orByte_bit _ _ (by omega) hk, orByte_bit _ _ (by omega) hk, orByte_bit _ _ (by omega) hk]
      simp only [BitVec.getLsbD_ofNat, hj, decide_true, Bool.true_and, hm (min 8 (11 - (8 - off % 8))) (by omega), Nat.testBit_shiftLeft, Nat.testBit_shiftRight, Nat.testBit_mod_two_pow, e1]
      have : 8 - off % 8 + 8 + j = 16 - off % 8 + j := by omega
      rw [this]
    · rw [orByte_bit _ _ (by omega) hk, orByte_bit _ _ (by omega) hk]
      simp only [BitVec.getLsbD_ofNat, hj, decide_true, Bool.true_and, hm (min 8 (11 - (8 - off % 8))) (by omega), Nat.testBit_shiftLeft, Nat.testBit_mod_two_pow, e1]
      rw [hbig (16 - off % 8 + j) (by omega)]
      simp
  rw [main]
  by_cases h0 : off / 8 = k
  · have a1 : ¬ off / 8 + 1 = k := by omega
    have a2 : ¬ off / 8 + 2 = k := by omega
    simp only [h0]
    by_cases hle : off % 8 ≤ j
    · have : off ≤ 8 * k + j := by omega
      have e : 8 * k + j - off = j - off % 8 := by omega
      simp [hle, this, e]
    · have : ¬ off ≤ 8 * k + j := by omega
      simp [hle, this]
  · by_cases h1 : off / 8 + 1 = k
    · have a2 : ¬ off / 8 + 2 = k := by omega
      have : off ≤ 8 * k + j := by omega
      have e : 8 * k + j - off = 8 - off % 8 + j := by omega
      simp [h0, h1, this, e]
      intro; omega
    · by_cases h2 : off / 8 + 2 = k
      · have : off ≤ 8 * k + j := by omega
        have e : 8 * k + j - off = 16 - off % 8 + j := by omega
        simp [h0, h1, h2, this, e]
      · by_cases hle : off ≤ 8 * k + j
        · rw [hbig (8 * k + j - off) (by omega)]; simp [h0, h1, h2]
        · simp [h0, h1, h2, hle]

theorem vectorOfList_get {A : Type} {n : Nat} (l : List A) (h : l.length = n) (k : Nat) (hk : k < n) :
    (vectorOfList l h)[k] = l[k]'(h.symm ▸ hk) := rfl

/-- A field is the low 11 bits of its register. -/
theorem channelFields_get (r : ChannelVector) (k : Fin 16) : (channelFields r)[k] = (r[k]).setWidth 11 := by
  simp only [channelFields, Fin.getElem_fin, vectorOfList_get]
  simp

/-- A field has its register's value, when the register fits the field (R120). -/
theorem channelFields_toNat (r : ChannelVector) (k : Fin 16) (h : r[k].toNat ≤ 2047) :
    (channelFields r)[k].toNat = r[k].toNat := by
  rw [channelFields_get, BitVec.toNat_setWidth]
  omega

end Sys2Proof.Machine
end

