-- ==== Sys2Proof/Laws/PerInstr.lean ====
section
/-! SUPPORT. The family EncodingRow: the encoding of an operation is a word of the operation's own row of R62, one
lemma per constructor. -/

namespace Sys2Proof.Laws.EncodingRow

/-- The operation's word matches a row of the opcode map that has the operation's mnemonic (R62). -/
def Statement (i : Instr) : Prop :=
  ∃ r ∈ opcodeTable, r.mnemonic = i.mnemonic ∧ encode i &&& r.mask = r.pattern

theorem beginCycle : Statement .beginCycle := ⟨⟨"BEGIN", 0x100000, 0xFFFFFF⟩, by decide, by decide, by decide⟩

/-- Masking a word whose fields are op, a and d masks each field (R60). -/
theorem commandWord_and (op a op' a' : BitVec 4) (d d' : BitVec 16) :
    commandWord op a d &&& commandWord op' a' d' = commandWord (op &&& op') (a &&& a') (d &&& d') := by
  exact BitVec.and_append.trans (congrArg (· ++ (d &&& d')) BitVec.and_append)

theorem qax (s : Fin 16) (v : BitVec 16) : Statement (.qax s v) :=
  ⟨⟨"QAX", 0x200000, commandWord 0xF 0 0⟩, by decide, rfl, by
    simp [encode, commandWord_and]; decide⟩

theorem ldch (i : Fin 16) (v : Channel) : Statement (.ldch i v) := by
  refine ⟨⟨"LDCH", 0x300000, commandWord 0xF 0 0xF000⟩, by decide, rfl, ?_⟩
  have h : v.setWidth 16 &&& 0xF000 = 0 := by
    apply BitVec.eq_of_getLsbD_eq
    intro j hj
    interval_cases j <;> simp
  simp only [encode, commandWord_and, h]
  revert i; decide

theorem btn (b : Bool) : Statement (.btn b) :=
  ⟨⟨"BTN", 0x400000, 0xFFFFFE⟩, by decide, rfl, by cases b <;> decide⟩

theorem bend : Statement .bend := ⟨⟨"BEND", 0x500000, 0xFFFFFF⟩, by decide, by decide, by decide⟩

theorem fill : Statement .fill := ⟨⟨"FILL", 0x600000, 0xFFFFFF⟩, by decide, by decide, by decide⟩

theorem pack : Statement .pack := ⟨⟨"PACK", 0x700000, 0xFFFFFF⟩, by decide, by decide, by decide⟩

theorem asm : Statement .asm := ⟨⟨"ASM", 0x800000, 0xFFFFFF⟩, by decide, by decide, by decide⟩

theorem rdch (i : Fin 16) : Statement (.rdch i) :=
  ⟨⟨"RDCH", 0x900000, 0xF0FFFF⟩, by decide, rfl, by revert i; decide⟩

theorem rdp (k : Fin 32) : Statement (.rdp k) :=
  ⟨⟨"RDP", 0xA00000, 0xFFFFE0⟩, by decide, rfl, by revert k; decide⟩

theorem rdf (k : Fin 32) : Statement (.rdf k) :=
  ⟨⟨"RDF", 0xB00000, 0xFFFFE0⟩, by decide, rfl, by revert k; decide⟩

theorem stat (sel : Bool) : Statement (.stat sel) :=
  ⟨⟨"STAT", 0xC00000, 0xFEFFFF⟩, by decide, rfl, by cases sel <;> decide⟩

end Sys2Proof.Laws.EncodingRow
end

