-- ==== Sys2Proof/Tests/Slice0.lean ====
section
/-! SUPPORT. Tests: words written out from R62 and 95_test_vectors.md section 7, the smoke test of WellFormed, at most
two one-step tests per operation with expected results from 95_test_vectors.md, and a witness for the hypotheses of every
statement that has some. -/

namespace Sys2Proof.Tests

open Sys2Proof Sys2Proof.Machine

/-! ### Helpers -/

/-- The state an operation leaves, if it answers one. -/
def nextOf : Result → Option State
  | .next t => some t
  | .fault _ => none
  | .refused _ => none

/-- A property of the state an operation leaves. -/
def after (r : Result) (p : State → Bool) : Bool := (nextOf r).any p

/-- The last response word given. -/
def lastResponse (s : State) : Option ResponseWord := s.responses.getLast?

/-- Just after BEGIN. -/
def mapState : State := startCycle State.reset

/-- In MAP with every channel written and holding `v`. -/
def fullState (v : Channel) : State := { mapState with ch := Vector.replicate 16 v, chv := 0xFFFF }

/-- In PACKED with every channel 991. -/
def packedState : State :=
  { fullState 991 with phase := .packed, pay := pack (channelFields (Vector.replicate 16 991)) }

/-- In DONE with every channel 991. -/
def doneState : State :=
  { packedState with
    phase := .done, frm := assemble packedState.pay 0x32, crca := 0x32 }

/-- In REJ with E_DOM and E_SEQ set. -/
def rejState : State := { fullState 2219 with phase := .rej, err := 0xA }

/-- `s` with one command word to come. -/
def given (s : State) (w : CommandWord) : State := { s with input := [.command w] }

/-! ### Decoding: words written out from the encoding, field by field -/

theorem test_decode_begin : decode 0b0001_0000_0000000000000000 = .ok .beginCycle := by decide
theorem test_decode_qax : decode 0b0010_0001_0111111111111111 = .ok (.qax 1 32767) := by decide
theorem test_decode_qax_negative : decode 0x23FFFF = .ok (.qax 3 0xFFFF) := by decide
theorem test_decode_ldch : decode 0b0011_0110_0000011111111111 = .ok (.ldch 6 2047) := by decide
theorem test_decode_btn : decode 0b0100_0000_0000000000000001 = .ok (.btn true) := by decide
theorem test_decode_btn_released : decode 0x400000 = .ok (.btn false) := by decide
theorem test_decode_bend : decode 0b0101_0000_0000000000000000 = .ok .bend := by decide
theorem test_decode_fill : decode 0b0110_0000_0000000000000000 = .ok .fill := by decide
theorem test_decode_pack : decode 0b0111_0000_0000000000000000 = .ok .pack := by decide
theorem test_decode_asm : decode 0b1000_0000_0000000000000000 = .ok .asm := by decide
theorem test_decode_rdch : decode 0b1001_0110_0000000000000000 = .ok (.rdch 6) := by decide
theorem test_decode_rdp : decode 0b1010_0000_0000000000010111 = .ok (.rdp 23) := by decide
theorem test_decode_rdf : decode 0b1011_0000_0000000000011011 = .ok (.rdf 27) := by decide
theorem test_decode_stat0 : decode 0b1100_0000_0000000000000000 = .ok (.stat false) := by decide
theorem test_decode_stat1 : decode 0b1100_0001_0000000000000000 = .ok (.stat true) := by decide

/-- The illegal words of 95_test_vectors.md section 7, each with the reason it gives. -/
theorem test_decode_illegal :
    decode 0x000000 = .error (.reservedOpcode 0x0) ∧ decode 0xFFFFFF = .error (.reservedOpcode 0xF) ∧
    decode 0xD00000 = .error (.reservedOpcode 0xD) ∧ decode 0xE12345 = .error (.reservedOpcode 0xE) ∧
    decode 0x100001 = .error (.nonzeroField 0x1) ∧ decode 0x510000 = .error (.nonzeroField 0x5) ∧
    decode 0x400002 = .error (.nonzeroField 0x4) ∧ decode 0x410001 = .error (.nonzeroField 0x4) ∧
    decode 0x301800 = .error (.nonzeroField 0x3) ∧ decode 0x960001 = .error (.nonzeroField 0x9) ∧
    decode 0xA00020 = .error (.nonzeroField 0xA) ∧ decode 0xB10000 = .error (.nonzeroField 0xB) ∧
    decode 0xC20000 = .error (.nonzeroField 0xC) := by decide

/-- The encodings R68 gives as examples. -/
theorem test_encode_examples :
    encode (.qax 3 0xFFFF) = 0x23FFFF ∧ encode (.ldch 6 2047) = 0x3607FF ∧ encode (.btn true) = 0x400001 ∧
    encode (.rdf 27) = 0xB0001B ∧ encode (.stat true) = 0xC10000 := by decide

/-! ### WellFormed smoke: an ill-formed term for each check, and the last legal operand -/

theorem test_wellFormed_qax : (Instr.qax 6 0).WellFormed = false ∧ (Instr.qax 5 0).WellFormed = true := by decide
theorem test_wellFormed_rdp : (Instr.rdp 24).WellFormed = false ∧ (Instr.rdp 23).WellFormed = true := by decide
theorem test_wellFormed_rdf : (Instr.rdf 28).WellFormed = false ∧ (Instr.rdf 27).WellFormed = true := by decide

/-! ### One step of each operation -/

/-- X20: BEGIN in REJ with ERR = 0b1010. -/
theorem test_begin_recovers :
    after (exec .beginCycle rejState)
      (fun t => t.phase = .map && t.err = 0 && t.chv = 0 && lastResponse t = some 0x00000) = true := by decide

/-- Q1, Q11, Q12, Q15, Q25 of section 2. -/
theorem test_quantize_vectors :
    quantize 0x8000 = 172 ∧ quantize 0xFFFF = 991 ∧ quantize 0x0000 = 991 ∧ quantize 0x0014 = 992 ∧
    quantize 0x7FFF = 1811 := by decide

/-- Example of R85: QAX 1, 32767 in MAP. -/
theorem test_qax_writes :
    after (exec (.qax 1 0x7FFF) mapState)
      (fun t => t.ch[1] = 1811 && t.chv = 0x0002 && lastResponse t = some 0x00000) = true := by decide

/-- X5: QAX 6, 0 faults with E_CFG and touches no channel. -/
theorem test_qax_slot_faults :
    after (exec (.qax 6 0) mapState)
      (fun t => t.phase = .rej && t.err = 0x1 && t.chv = 0 && lastResponse t = some 0x10000) = true := by decide

/-- LDCH 15, 4095: no range check at the load. -/
theorem test_ldch_raw :
    after (exec (.ldch 15 4095) mapState) (fun t => t.ch[15] = 4095 && t.chv = 0x8000 && t.err = 0) = true := by
  decide

/-- B23 to B24: the 11th button commits the bank with 172 + 2047 = 2219. -/
theorem test_btn_eleventh_commits :
    after (exec (.btn true) { mapState with bpos := 10, mask := 1023 })
      (fun t => t.ch[6] = 2219 && t.slot = .free 1 && t.bpos = 0 && t.mask = 0) = true := by decide

/-- B29: with every slot used a button is dropped, no error. -/
theorem test_btn_dropped :
    nextOf (exec (.btn true) { fullState 172 with slot := .full }) =
      some (State.answered 0 { fullState 172 with slot := .full }) := by decide

/-- B20 to B21: BEND commits mask 9 with 4 buttons taken. -/
theorem test_bend_commits :
    after (exec .bend { mapState with bpos := 4, mask := 9 })
      (fun t => t.ch[6] = 181 && t.chv = 0x0040 && t.slot = .free 1 && t.bpos = 0) = true := by decide

/-- B25: BEND with nothing open changes nothing. -/
theorem test_bend_empty : nextOf (exec .bend mapState) = some (mapState.answered 0) := by decide

/-- B27: FILL with mask 5 open. -/
theorem test_fill_open_bank :
    after (exec .fill { mapState with bpos := 3, mask := 5 })
      (fun t => t.ch[6] = 177 && t.ch[7] = 991 && t.ch[15] = 991 && t.chv = 0xFFC0 && t.slot = .full) = true := by
  decide

/-- K-P7 of section 4: a payload with every straddle. -/
theorem test_pack_vector :
    (pack #v[172, 1811, 991, 992, 1401, 581, 181, 174, 991, 991, 991, 991, 991, 991, 991, 991]).toList =
      [0xAC, 0x98, 0xF8, 0xF7, 0xC0, 0x97, 0xD7, 0x22, 0xD5, 0xC2, 0x15, 0xDF,
       0xFB, 0xDE, 0xF7, 0xBE, 0xF7, 0xBD, 0xEF, 0x7D, 0xEF, 0x7B, 0x00, 0x00] := by decide

/-- K-C4: only CH[0] written, and above 2047: both causes together. -/
theorem test_pack_both_causes :
    after (exec .pack { mapState with ch := Vector.replicate 16 2048, chv := 0x0001 })
      (fun t => t.err = 0x3 && t.phase = .rej && lastResponse t = some 0x30000) = true := by decide

/-- F3: the frame of sixteen channels at 991. -/
theorem test_asm_frame :
    after (exec .asm packedState)
      (fun t => t.crca = 0x32 && t.phase = .done && t.frm.toList.take 5 = [0xC8, 0x1A, 0x16, 0xDF, 0xFB] &&
        t.frm.toList.drop 24 = [0x7B, 0x00, 0x00, 0x32]) = true := by decide +kernel

/-- X19: a second ASM faults with E_SEQ. -/
theorem test_asm_twice : after (exec .asm doneState) (fun t => t.err = 0x8 && t.frm = doneState.frm) = true := by
  decide

/-- P3: RDCH 6 in REJ gives the literal 2219 = 0x8AB beside err = 0xA. -/
theorem test_rdch_in_rej : after (exec (.rdch 6) rejState) (fun t => lastResponse t = some 0xA08AB) = true := by
  decide

/-- X8: RDCH of an unwritten channel faults with E_SEQ. -/
theorem test_rdch_unwritten :
    after (exec (.rdch 0) mapState) (fun t => t.phase = .rej && lastResponse t = some 0x80000) = true := by decide

/-- Example of R163: RDP 0 returns 0x00DF. -/
theorem test_rdp_reads : after (exec (.rdp 0) packedState) (fun t => lastResponse t = some 0x000DF) = true := by decide

/-- X14: RDP 24 faults with E_CFG. -/
theorem test_rdp_range : after (exec (.rdp 24) packedState) (fun t => lastResponse t = some 0x10000) = true := by decide

/-- P1: RDF 27 returns the checksum 0x32. -/
theorem test_rdf_reads : after (exec (.rdf 27) doneState) (fun t => lastResponse t = some 0x00032) = true := by decide

/-- X18: RDF 28 faults with E_CFG. -/
theorem test_rdf_range : after (exec (.rdf 28) doneState) (fun t => lastResponse t = some 0x10000) = true := by decide

/-- B23: STAT 0 with ten buttons taken returns 0x0A31. -/
theorem test_stat0_word :
    after (exec (.stat false) { mapState with bpos := 10, mask := 1023 })
      (fun t => lastResponse t = some 0x00A31) = true := by decide

/-- X23: STAT 1 with channels 4 and 5 missing. -/
theorem test_stat1_word :
    after (exec (.stat true) { mapState with chv := 0xFFCF }) (fun t => lastResponse t = some 0x0FFCF) = true := by
  decide

/-- X4: the word 0x000000 after reset. -/
theorem test_step_illegal :
    after (step (given State.reset 0x000000)) (fun t => t.err = 0x4 && lastResponse t = some 0x40000) = true := by
  decide

/-- X1 through the host's way of placing a word: STAT 0 after reset returns 0x0030. -/
theorem test_step_placed_word :
    after (step (State.reset.withFetchWord 24 0xC00000))
      (fun t => t.input = [] && lastResponse t = some 0x00030) = true := by decide

theorem test_decodeTableWord : decodeTableWord 24 0x25C000 = some (.qax 5 0xC000) := by decide

/-- K4, K10 and K12 of section 5. -/
theorem test_crc_vectors : crc8 [0x16] = 0xD3 ∧ crc8 [0x16, 0x00] = 0x8A ∧ crc8Update 0xD3 0xDF = 0xD7 := by decide

/-- B5 to B7 of section 3: the reference multiplexer. -/
theorem test_mapButtons_vectors :
    mapButtons [true, false, false, true, false, false, false, false, false, false, false] [false, true] 0 = 181 ∧
    mapButtons [true] [false, true] 1 = 174 ∧ mapButtons [true] [false, true] 2 = 991 ∧
    mapButtons (List.replicate 11 false ++ [true]) [true] 2 = 173 := by decide

/-! ### Witnesses: the hypotheses of each statement can be met together -/

/-- WaitsWithoutCommand. -/
theorem test_witness_no_command : State.reset.input = [] := by decide

/-- StepRunsDecodedCommand, EncodeInvertsDecode, OperandsTakenFromFields. -/
theorem test_witness_decoded : decode 0x700000 = .ok .pack ∧ decode 0x2F8000 = .ok (.qax 15 0x8000) := by decide

/-- OperandsTakenFromFields, the arms with operands at the end of their range. -/
theorem test_witness_operand_arms :
    decode 0x3F0FFF = .ok (.ldch 15 4095) ∧ decode 0x9F0000 = .ok (.rdch 15) ∧ decode 0xA0001F = .ok (.rdp 31) ∧
    decode 0xB0001F = .ok (.rdf 31) := by decide

/-- UnmatchedWordFaults: the all-zero and the all-ones word match no row. -/
theorem test_witness_unmatched :
    (∀ r ∈ opcodeTable, (0x000000 : CommandWord) &&& r.mask ≠ r.pattern) ∧
    (∀ r ∈ opcodeTable, (0xFFFFFF : CommandWord) &&& r.mask ≠ r.pattern) := by decide

/-- DecodeFollowsOpcodeMap: a row and a word that matches it. -/
theorem test_witness_row :
    (⟨"STAT", 0xC00000, 0xFEFFFF⟩ : OpcodeRow) ∈ opcodeTable ∧ (0xC10000 : CommandWord) &&& 0xFEFFFF = 0xC00000 := by
  decide

/-- QuantizeMonotone: the two ends. -/
theorem test_witness_monotone : (0x8000 : BitVec 16).toInt ≤ (0x7FFF : BitVec 16).toInt := by decide

/-- QuantizeOntoUsableSpan: both sides at both ends (R81). -/
theorem test_witness_onto : (quantize 0x8000).toNat = 172 ∧ (quantize 0x7FFF).toNat = 1811 := by decide

/-- QuantizeLevelInputs: the last level. -/
theorem test_witness_level : (1639 : Nat) ≤ 1639 ∧ (0x7FFF : BitVec 16).toInt ≠ -32768 := by decide

/-- QaxByRule, every clause. -/
theorem test_witness_qax :
    State.reset.phase ≠ .map ∧ mapState.phase = .map ∧ 5 < (6 : Fin 16).val ∧ (5 : Fin 16).val ≤ 5 := by decide

/-- LdchByRule, FillByRule, every clause. -/
theorem test_witness_mapping : packedState.phase ≠ .map ∧ mapState.phase = .map := by decide

/-- BankCommitByRule, the clause about the other channels. -/
theorem test_witness_other_channel : (15 : Fin 16) ≠ slotChannel 0 := by decide

/-- BtnByRule, every clause: dropped, closing, and taken at the last free position. -/
theorem test_witness_btn :
    doneState.phase ≠ .map ∧
    (let s := { fullState 0 with slot := .full }; s.phase = .map ∧ s.slot = .full) ∧
    (let s := { mapState with bpos := 10 }; s.phase = .map ∧ s.slot = .free 0 ∧ s.bpos.val = 10) ∧
    (let s := { mapState with slot := .free 9, bpos := 9 }; s.phase = .map ∧ s.slot = .free 9 ∧ s.bpos.val < 10) := by
  decide

/-- BendByRule, every clause. -/
theorem test_witness_bend :
    rejState.phase ≠ .map ∧
    (let s := { mapState with slot := .free 9, bpos := 1 }; s.phase = .map ∧ s.slot = .free 9 ∧ 0 < s.bpos.val) ∧
    (mapState.phase = .map ∧ (mapState.slot = .full ∨ mapState.bpos.val = 0)) := by decide

/-- FillByRule, the channels below and from SLOT on. -/
theorem test_witness_fill :
    (5 : Fin 16).val < mapState.slot.index ∧ mapState.slot.index ≤ (6 : Fin 16).val := by decide

/-- StreamedButtonsMatchReference. -/
theorem test_witness_stream :
    mapState.phase = .map ∧ mapState.slot = .free 0 ∧ mapState.bpos = 0 ∧ mapState.mask = 0 := by decide

/-- OnlyLdchWritesAbove2219, AccessMatrix, PhaseGraph: an operation other than LDCH that answers a next state. -/
theorem test_witness_next : ∃ t : State, exec .fill mapState = .next t := ⟨_, rfl⟩

/-- PackBitLayout: a bit address with no channel bit; PackLanesIndependent: vectors that differ in lane 2 only. -/
theorem test_witness_lane :
    176 ≤ (176 : Fin 192).val ∧
    (∀ k : Fin 16, k ≠ 2 → (Vector.replicate 16 (7 : Field))[k] = ((Vector.replicate 16 (7 : Field)).set 2 9)[k]) ∧
    ((21 : Fin 192).val < 11 * (2 : Fin 16).val ∨ 11 * (2 : Fin 16).val + 11 ≤ (21 : Fin 192).val) ∧
    ((33 : Fin 192).val < 11 * (2 : Fin 16).val ∨ 11 * (2 : Fin 16).val + 11 ≤ (33 : Fin 192).val) := by decide

/-- PackByRule, every clause: not MAP; unwritten only; too wide only, at 2048; both; neither, at 2047. -/
theorem test_witness_pack :
    packedState.phase ≠ .map ∧
    (mapState.phase = .map ∧ (∃ k : Fin 16, mapState.chv[k] = false) ∧
      ¬(∃ k : Fin 16, mapState.chv[k] = true ∧ 2047 < mapState.ch[k].toNat)) ∧
    ((fullState 2048).phase = .map ∧ (∀ k : Fin 16, (fullState 2048).chv[k] = true) ∧
      ∃ k : Fin 16, 2047 < (fullState 2048).ch[k].toNat) ∧
    (let s := { fullState 2048 with chv := 0x0001 };
      s.phase = .map ∧ (∃ k : Fin 16, s.chv[k] = false) ∧ ∃ k : Fin 16, s.chv[k] = true ∧ 2047 < s.ch[k].toNat) ∧
    ((fullState 2047).phase = .map ∧ (∀ k : Fin 16, (fullState 2047).chv[k] = true) ∧
      ∀ k : Fin 16, (fullState 2047).ch[k].toNat ≤ 2047) := by decide

/-- CrcLinear. -/
theorem test_witness_lengths : ([0x16, 0x01] : List Byte).length = ([0xFF, 0x80] : List Byte).length := by decide

/-- CrcIsPolynomialRemainder: 1 is a root of G in the field of two elements. -/
theorem test_witness_root :
    (1 : ZMod 2) ^ 8 + 1 ^ 7 + 1 ^ 6 + 1 ^ 4 + 1 ^ 2 + 1 = 0 ∧ CharP (ZMod 2) 2 := ⟨by decide, inferInstance⟩

/-- AsmByRule, both clauses. -/
theorem test_witness_asm : doneState.phase ≠ .packed ∧ packedState.phase = .packed := by decide

/-- The invariant holds in DONE of a cycle (95_test_vectors.md F3), so FinishedFrameIsValid speaks of some state. -/
theorem test_witness_done_inv : doneState.Inv ∧ doneState.succeeded :=
  ⟨⟨by decide, by decide, by decide, by decide, by decide, by decide, fun _ => rfl, by decide +kernel⟩, by decide⟩

/-- StepKeepsInvariant: a step from that state with a command to come. -/
theorem test_witness_inv_step : ∃ t : State, (given doneState 0xB00000).Inv ∧ step (given doneState 0xB00000) = .next t :=
  ⟨_, ⟨by decide, by decide, by decide, by decide, by decide, by decide, fun _ => rfl, by decide +kernel⟩, rfl⟩

/-- RdchByRule, every clause. -/
theorem test_witness_rdch :
    (State.reset.phase = .idle ∨ State.reset.chv[(0 : Fin 16)] = false) ∧
    rejState.phase ≠ .idle ∧ rejState.chv[(15 : Fin 16)] = true := by decide

/-- RdpByRule and RdfByRule, every clause at the ends of the ranges. -/
theorem test_witness_readout :
    (mapState.phase ≠ .packed ∧ mapState.phase ≠ .done) ∧ (packedState.phase = .packed ∨ packedState.phase = .done) ∧
    23 < (24 : Fin 32).val ∧ (23 : Fin 32).val ≤ 23 ∧ doneState.phase = .done ∧ 27 < (28 : Fin 32).val ∧
    (27 : Fin 32).val ≤ 27 := by decide

/-- FrameReadInWireOrder, FrameImmutableInDone: in DONE, with a command to come that stays and one that leaves. -/
theorem test_witness_done_step :
    doneState.succeeded ∧ (given doneState 0xB00000).input.head? ≠ some .reset ∧
    after (step (given doneState 0xB00000)) (fun t => t.phase = .done) = true ∧
    after (step (given doneState 0x100000)) (fun t => t.phase = .map) = true := by decide

/-- AdmissionTable, both clauses. -/
theorem test_witness_admission :
    admits .pack doneState.phase = false ∧ (Instr.rdf 27).WellFormed = true ∧ admits (.rdf 27) .done = true := by
  decide

/-- FaultsFollowCheckOrder and AccessMatrix: a fault and none; a read-out and its data. -/
theorem test_witness_faultMask :
    faultMask (.qax 6 0) mapState ≠ 0 ∧ faultMask (.rdf 0) doneState = 0 ∧ readsOut (.rdf 0) = true := by decide

/-- ErrBitsSticky: a set bit and a command that is not BEGIN. -/
theorem test_witness_sticky :
    (given rejState 0x800000).input.head? ≠ some .reset ∧
    (given rejState 0x800000).input.head? ≠ some (.command 0x100000) ∧ rejState.err[(1 : Fin 4)] = true ∧
    after (step (given rejState 0x800000)) (fun t => t.err = 0xA) = true := by decide

/-- OneResponsePerCommand: a command to come. -/
theorem test_witness_command : (given doneState 0xB00000).input = .command 0xB00000 :: [] := by decide

/-- NoFrameAfterFault: a rejected state with a command to come that is neither BEGIN nor reset. -/
theorem test_witness_rejected_run :
    (given rejState 0x700000).rejected ∧
    (∀ e ∈ (given rejState 0x700000).input, e ≠ .reset ∧ e ≠ .command 0x100000) ∧
    after (runSteps 2 (given rejState 0x700000)) (fun t => t.phase = .rej) = true := by decide

/-- GatedDataUnobservable: two states that differ in gated data, and a step. -/
theorem test_witness_indist :
    Indist (given mapState 0x600000) { given mapState 0x600000 with ch := Vector.replicate 16 5, crca := 7 } ∧
    ∃ t : State, step (given mapState 0x600000) = .next t :=
  ⟨⟨rfl, rfl, rfl, rfl, rfl, rfl, rfl, rfl, by decide, by decide, by decide⟩, _, rfl⟩

/-- CanonicalCycle, a bank at each side of the field's limit (R109 (b): a bank is above 2047 exactly when its mask is at
least 1876 = 0b11101010100): mask 1875 gives 2047 and every bank fits; mask 1876 gives 2048 and one does not. -/
theorem test_witness_cycle :
    (let fits := [true, true, false, false, true, false, true, false, true, true, true]
     (mapButtons fits [] 0).toNat = 2047 ∧ ∀ j : Fin 10, (mapButtons fits [] j.val).toNat ≤ 2047) ∧
    (let exceeds := [false, false, true, false, true, false, true, false, true, true, true]
     (mapButtons exceeds [] 0).toNat = 2048 ∧ ∃ j : Fin 10, 2047 < (mapButtons exceeds [] j.val).toNat) := by decide

end Sys2Proof.Tests
end

section
/-! What a step does with a command word to come (R7, R67). -/

namespace Sys2Proof.Machine

/-- Accept and execute are one step (R7): the word leaves the stream and its operation runs. -/
theorem step_of_decode_ok {s : State} {w : CommandWord} {i : Instr} {rest : List HostEvent}
    (hin : s.input = .command w :: rest) (hd : decode w = .ok i) :
    step s = exec i { s with input := rest } := by
  simp only [step, takeEvent_cons hin, hd]

/-- Settles O4: the state with the word put first has that word as its next event. -/
theorem stepRunsDecodedCommand : Obligations.StepRunsDecodedCommand := by
  intro s w i rest hd
  exact step_of_decode_ok (s := { s with input := .command w :: rest }) rfl hd

end Sys2Proof.Machine
end

section
/-! What an operation answers, said once for all twelve: its fault entry when a stage of R187 finds a cause, and its
writes and its response otherwise. -/

namespace Sys2Proof.Machine

/-- What BTN writes: nothing when every slot is used, the button's bit otherwise (R104). -/
def buttonTaken (b : Bool) (s : State) : State :=
  match s.slot with
  | .free j => takeButton j b s
  | .full => s

/-- What FILL writes (R106). -/
def bankFilled (s : State) : State :=
  { fillFrom (closeBank s).slot (closeBank s) with slot := .full, bpos := 0, mask := 0 }

/-- What an operation writes when it completes (R26); `exec_eq` ties it to `exec`. -/
def completed : Instr → State → State
  | .beginCycle, s => startCycle s
  | .qax k v, s => writeCh k ((quantize v).setWidth 12) s
  | .ldch k v, s => writeCh k v s
  | .btn b, s => buttonTaken b s
  | .bend, s => closeBank s
  | .fill, s => bankFilled s
  | .pack, s => { s with pay := pack (channelFields s.ch), phase := .packed }
  | .asm, s =>
    { s with crca := frameChecksum s.pay, frm := assemble s.pay (frameChecksum s.pay), phase := .done }
  | .rdch _, s => s
  | .rdp _, s => s
  | .rdf _, s => s
  | .stat _, s => s

/-- The data an operation returns when it completes (R47 (c)); `exec_eq` ties it to `exec`. -/
def readData : Instr → State → BitVec 16
  | .rdch k, s => s.ch[k].setWidth 16
  | .rdp k, s => if h : k.val ≤ 23 then (s.pay[k.val]'(by omega)).setWidth 16 else 0
  | .rdf k, s => if h : k.val ≤ 27 then (s.frm[k.val]'(by omega)).setWidth 16 else 0
  | .stat sel, s => if sel then statusWord1 s else statusWord0 s
  | .beginCycle, _ | .qax _ _, _ | .ldch _ _, _ | .btn _, _ | .bend, _ | .fill, _ | .pack, _ | .asm, _ => 0

theorem admits_rdp (k : Fin 32) (p : Phase) : admits (.rdp k) p = decide (p = .packed ∨ p = .done) := by
  simp [admits]

/-- R187, R188: the first stage that finds a cause decides the fault; without one the operation completes. -/
theorem exec_eq (i : Instr) (s : State) :
    exec i s =
      if faultMask i s = 0 then .next ((completed i s).answered (readData i s))
      else .next (s.faulted (faultMask i s)) := by
  cases i with
  | beginCycle | stat => rfl
  | qax k v =>
    rw [exec_qax]
    by_cases hp : s.phase = .map <;> by_cases hk : k.val ≤ 5 <;>
      simp [faultMask, admits, Instr.WellFormed, stateChecks, completed, readData, hp, hk]
  | ldch | bend | fill =>
    simp only [exec_ldch, exec_bend, exec_fill]
    by_cases hp : s.phase = .map <;>
      simp [faultMask, admits, Instr.WellFormed, stateChecks, completed, bankFilled, readData, hp]
  | btn b =>
    rw [exec_btn]
    by_cases hp : s.phase = .map
    · rw [if_pos hp, if_pos (by simp [faultMask, admits, Instr.WellFormed, stateChecks, hp])]
      simp only [completed, buttonTaken, readData]
      cases s.slot <;> rfl
    · simp [faultMask, admits, hp]
  | pack =>
    rw [exec_pack]
    by_cases hp : s.phase = .map
    · simp [faultMask, admits, Instr.WellFormed, completed, readData, hp]
    · simp [faultMask, admits, hp]
  | asm =>
    rw [exec_asm]
    by_cases hp : s.phase = .packed <;>
      simp [faultMask, admits, Instr.WellFormed, stateChecks, completed, readData, hp]
  | rdch k =>
    rw [exec_rdch]
    by_cases hp : s.phase = .idle
    · simp [faultMask, admits, hp]
    · rw [if_neg hp]
      by_cases hc : s.chv[k] = true <;>
        simp only [faultMask, admits, Instr.WellFormed, stateChecks, completed, readData, hc] <;>
        simp [hp]
  | rdp k =>
    rw [exec_rdp]
    by_cases hp : s.phase = .packed ∨ s.phase = .done <;> by_cases hk : k.val ≤ 23 <;>
      simp only [faultMask, admits_rdp, hp] <;>
      simp [Instr.WellFormed, stateChecks, completed, readData, hk]
  | rdf k =>
    rw [exec_rdf]
    by_cases hp : s.phase = .done <;> by_cases hk : k.val ≤ 27 <;>
      simp [faultMask, admits, Instr.WellFormed, stateChecks, completed, readData, hp, hk]

/-- What `exec` can leave: a fault entry with a cause, or the operation's own writes with its response. -/
theorem exec_next_cases {i : Instr} {s t : State} (h : exec i s = .next t) :
    (faultMask i s ≠ 0 ∧ t = s.faulted (faultMask i s)) ∨
    (faultMask i s = 0 ∧ t = (completed i s).answered (readData i s)) := by
  rw [exec_eq] at h
  split at h
  case isTrue hm => exact .inr ⟨hm, (Host.Outcome.next.inj h).symm⟩
  case isFalse hm => exact .inl ⟨hm, (Host.Outcome.next.inj h).symm⟩

theorem faultMask_of_not_admits {i : Instr} {s : State} (h : admits i s.phase = false) : faultMask i s = 0x8 := by
  simp [faultMask, h]

/-- An operation that completes is admitted in its phase (R165). -/
theorem admits_of_faultMask_eq_zero {i : Instr} {s : State} (h : faultMask i s = 0) : admits i s.phase = true := by
  by_contra hn
  simp [faultMask_of_not_admits (Bool.eq_false_of_not_eq_true hn)] at h

theorem stateChecks_of_faultMask_eq_zero {i : Instr} {s : State} (h : faultMask i s = 0) : stateChecks i s = 0 := by
  unfold faultMask at h
  split at h
  · simp at h
  · split at h
    · simp at h
    · exact h

/-- PACK's checks find nothing exactly when every channel is written and fits the field (R124). -/
theorem stateChecks_pack_eq_zero (s : State) :
    stateChecks .pack s = 0 ↔ ∀ k : Fin 16, s.chv[k] = true ∧ s.ch[k].toNat ≤ 2047 := by
  simp only [stateChecks, BitVec.ofNat_eq_ofNat, BitVec.or_eq_zero_iff, ite_eq_right_iff]
  constructor
  · rintro ⟨hw, hd⟩ k
    have hk : s.chv[k] = true := by
      by_contra hn
      exact absurd (hw ⟨k, Bool.eq_false_of_not_eq_true hn⟩) (by decide)
    refine ⟨hk, ?_⟩
    by_contra hn
    exact absurd (hd ⟨k, hk, by omega⟩) (by decide)
  · intro h
    constructor
    · rintro ⟨k, hk⟩
      rw [(h k).1] at hk
      cases hk
    · rintro ⟨k, -, hk⟩
      exact absurd (h k).2 (by omega)

/-! ### Steps -/

theorem step_of_no_input {s : State} (hin : s.input = []) : step s = .next s := by
  simp only [step, takeEvent_nil hin, wait]

theorem step_of_reset {s : State} {rest : List HostEvent} (hin : s.input = .reset :: rest) :
    step s = .next { s with input := rest, toArch := Arch.reset } := by
  simp only [step, takeEvent_cons hin, applyReset]

theorem step_of_decode_error {s : State} {w : CommandWord} {e : DecodeError} {rest : List HostEvent}
    (hin : s.input = .command w :: rest) (hd : decode w = .error e) :
    step s = .next (State.faulted 0x4 { s with input := rest }) := by
  simp only [step, takeEvent_cons hin, hd, illegalWord, raise_op]

/-- The core never halts (R189): each kind of event has a next state. -/
theorem exists_step_next (s : State) : ∃ t, step s = .next t := by
  obtain ⟨-, e⟩ | ⟨rest, -, e⟩ | ⟨w, rest, i, -, -, e⟩ | ⟨w, rest, err, -, -, e⟩ := step_cases s <;> rw [e]
  · exact ⟨_, rfl⟩
  · exact ⟨_, rfl⟩
  · rw [exec_eq]
    split <;> exact ⟨_, rfl⟩
  · exact ⟨_, rfl⟩

/-! ### The operations that write channels change nothing but CH, CHV and the bank -/

/-- `t` is `s` with other values in CH, CHV, SLOT, BPOS and MASK at most. -/
structure MappingFrame (s t : State) : Prop where
  phase : t.phase = s.phase
  err : t.err = s.err
  pay : t.pay = s.pay
  crca : t.crca = s.crca
  frm : t.frm = s.frm
  input : t.input = s.input
  responses : t.responses = s.responses

theorem MappingFrame.refl (s : State) : MappingFrame s s := ⟨rfl, rfl, rfl, rfl, rfl, rfl, rfl⟩

theorem writeCh_frame (k : Fin 16) (v : Channel) (s : State) : MappingFrame s (writeCh k v s) :=
  ⟨rfl, rfl, rfl, rfl, rfl, rfl, rfl⟩

theorem bankCommit_frame (j : Fin 10) (m : BitVec 11) (s : State) : MappingFrame s (bankCommit j m s) :=
  ⟨rfl, rfl, rfl, rfl, rfl, rfl, rfl⟩

theorem takeButton_of_lt (j : Fin 10) (b : Bool) {s : State} (h : s.bpos.val < 10) :
    takeButton j b s = { s with mask := s.mask ||| buttonBit b s.bpos, bpos := ⟨s.bpos.val + 1, by omega⟩ } := by
  simp [takeButton, h]

theorem takeButton_of_ge (j : Fin 10) (b : Bool) {s : State} (h : ¬s.bpos.val < 10) :
    takeButton j b s = bankCommit j (s.mask ||| buttonBit b s.bpos) s := by
  simp [takeButton, h]

theorem buttonTaken_of_free (b : Bool) {s : State} {j : Fin 10} (h : s.slot = .free j) :
    buttonTaken b s = takeButton j b s := by
  simp [buttonTaken, h]

/-- BTN drops the button, takes it into the open bank, or commits the bank with it (R104). -/
theorem buttonTaken_cases (b : Bool) (s : State) :
    (s.slot = .full ∧ buttonTaken b s = s) ∨
    (∃ j, s.slot = .free j ∧ ∃ h : s.bpos.val < 10, buttonTaken b s =
      { s with mask := s.mask ||| buttonBit b s.bpos, bpos := ⟨s.bpos.val + 1, by omega⟩ }) ∨
    (∃ j, s.slot = .free j ∧ buttonTaken b s = bankCommit j (s.mask ||| buttonBit b s.bpos) s) := by
  rcases hs : s.slot with j | _
  · by_cases h : s.bpos.val < 10
    · exact .inr (.inl ⟨j, rfl, h, by rw [buttonTaken_of_free b hs, takeButton_of_lt j b h, hs]⟩)
    · exact .inr (.inr ⟨j, rfl, by rw [buttonTaken_of_free b hs, takeButton_of_ge j b h]⟩)
  · exact .inl ⟨rfl, by simp [buttonTaken, hs]⟩

theorem buttonTaken_frame (b : Bool) (s : State) : MappingFrame s (buttonTaken b s) := by
  obtain ⟨-, h⟩ | ⟨j, -, _, h⟩ | ⟨j, -, h⟩ := buttonTaken_cases b s <;> rw [h]
  · exact .refl s
  · exact ⟨rfl, rfl, rfl, rfl, rfl, rfl, rfl⟩
  · exact bankCommit_frame j _ s

theorem closeBank_frame (s : State) : MappingFrame s (closeBank s) := by
  obtain ⟨j, -, -, h⟩ | ⟨-, h⟩ := closeBank_cases s <;> rw [h]
  · exact bankCommit_frame j _ s
  · exact .refl s

/-- FILL closes the bank and then writes CH, CHV and the bank state only. -/
theorem bankFilled_frame (s : State) : MappingFrame s (bankFilled s) := by
  have hc := closeBank_frame s
  unfold bankFilled
  rw [fillFrom_frame]
  exact ⟨hc.phase, hc.err, hc.pay, hc.crca, hc.frm, hc.input, hc.responses⟩

theorem completed_frame {i : Instr} (h : writesChannels i = true) (s : State) : MappingFrame s (completed i s) := by
  cases i with
  | qax k v => exact writeCh_frame k _ s
  | ldch k v => exact writeCh_frame k v s
  | btn b => exact buttonTaken_frame b s
  | bend => exact closeBank_frame s
  | fill => exact bankFilled_frame s
  | beginCycle | pack | asm | rdch | rdp | rdf | stat => cases h

end Sys2Proof.Machine
end

section
/-! The invariant of the machine (R12, R15 to R20): it holds after reset, and fault entry and every operation keep it. -/

namespace Sys2Proof.Machine

/-- The invariant speaks of the architectural state only. -/
theorem State.Inv.of_toArch_eq {s t : State} (h : s.Inv) (e : t.toArch = s.toArch) : t.Inv := by
  obtain ⟨a, _, _⟩ := s
  obtain ⟨_, _, _⟩ := t
  cases e
  exact { h with }

theorem State.Inv.err_eq_zero {s : State} (h : s.Inv) (hp : s.phase ≠ .rej) : s.err = 0 := by
  by_contra he
  exact hp (h.rejected_iff.mpr he)

/-- In MAP the invariant says no more than this: the clauses for the other phases are void. -/
theorem State.Inv.of_map {s : State} (hp : s.phase = .map) (herr : s.err = 0)
    (habove : ∀ i : Fin 11, s.bpos.val ≤ i.val → s.mask[i] = false) (hfull : s.slot = .full → s.bpos = 0)
    (hslots : ∀ i : Fin 16, 6 ≤ i.val → i.val < s.slot.index → s.chv[i] = true) : s.Inv where
  rejected_iff := by simp [hp, herr]
  mask_above := habove
  full_closed := hfull
  slots_written := hslots
  idle_clear := by simp [hp]
  vector_checked := by simp [hp]
  payload_current := by simp [hp]
  frame_current := by simp [hp]

/-- Settles O52: every clause speaks of the finitely many bits and the phase of the reset state. -/
theorem invariantAtReset : Obligations.InvariantAtReset where
  rejected_iff := by decide
  mask_above := by decide
  full_closed := by decide
  slots_written := by decide
  idle_clear := by decide
  vector_checked := by decide
  payload_current := by decide
  frame_current := by decide

/-- Settles O1: the reset state is a fixed value. -/
theorem resetStateValues : Obligations.ResetStateValues := by
  unfold Obligations.ResetStateValues
  decide

/-- Fault entry keeps the invariant: ERR is not 0 and PHASE is REJ together (R188). -/
theorem State.Inv.faulted {s : State} (h : s.Inv) {m : BitVec 4} (hm : m ≠ 0) : (s.faulted m).Inv where
  rejected_iff := by
    have he : s.err ||| m ≠ 0 := fun e => hm (BitVec.or_eq_zero_iff.mp e).2
    simpa using he
  mask_above := h.mask_above
  full_closed := h.full_closed
  slots_written := h.slots_written
  idle_clear := by simp
  vector_checked := by simp
  payload_current := by simp
  frame_current := by simp

/-! ### The operations -/

theorem startCycle_inv (s : State) : (startCycle s).Inv :=
  .of_map rfl rfl (by simp) (by simp) fun i h6 hi => by simp [Slot.index] at hi; omega

theorem State.Inv.writeCh {s : State} (h : s.Inv) (hp : s.phase = .map) (k : Fin 16) (v : Channel) :
    (writeCh k v s).Inv :=
  .of_map hp (h.err_eq_zero (by simp [hp])) h.mask_above h.full_closed fun i h6 hi => by
    rw [writeCh_chv_get, h.slots_written i h6 hi, Bool.or_true]

/-- A commit writes the slot it closes, so the slots below the new SLOT are written (R107). -/
theorem State.Inv.bankCommit {s : State} (h : s.Inv) (hp : s.phase = .map) {j : Fin 10} (hs : s.slot = .free j)
    (m : BitVec 11) : (bankCommit j m s).Inv := by
  refine .of_map hp (h.err_eq_zero (by simp [hp])) (by simp) (fun _ => rfl) fun i h6 hi => ?_
  rw [bankCommit_index] at hi
  by_cases hij : i = slotChannel j
  · rw [hij, bankCommit_chv_self]
  · have hne : i.val ≠ 6 + j.val := fun e => hij (Fin.ext e)
    rw [bankCommit_chv_other m s hij]
    exact h.slots_written i h6 (by rw [hs, Slot.index]; omega)

theorem buttonBit_get_other (b : Bool) {pos i : Fin 11} (h : i ≠ pos) : (buttonBit b pos)[i] = false := by
  have hv : i.val ≠ pos.val := fun e => h (Fin.ext e)
  cases b <;> simp [buttonBit, BitVec.getElem_twoPow, hv]

theorem State.Inv.buttonTaken {s : State} (h : s.Inv) (hp : s.phase = .map) (b : Bool) : (buttonTaken b s).Inv := by
  obtain ⟨-, e⟩ | ⟨j, hs, _, e⟩ | ⟨j, hs, e⟩ := buttonTaken_cases b s <;> rw [e]
  · exact h
  · refine .of_map hp (h.err_eq_zero (by simp [hp])) (fun i hi => ?_) (by simp [hs]) h.slots_written
    have hlt : s.bpos.val + 1 ≤ i.val := hi
    have hne : i ≠ s.bpos := fun e => by simp [e] at hlt
    have hm := h.mask_above i (by omega)
    have hb := buttonBit_get_other b hne
    simpa using ⟨hm, hb⟩
  · exact h.bankCommit hp hs _

theorem State.Inv.closeBank {s : State} (h : s.Inv) (hp : s.phase = .map) : (closeBank s).Inv := by
  obtain ⟨j, hs, -, e⟩ | ⟨-, e⟩ := closeBank_cases s <;> rw [e]
  · exact h.bankCommit hp hs _
  · exact h

/-- FILL writes every channel from SLOT on, and the slots below were written before (R106). -/
theorem State.Inv.bankFilled {s : State} (h : s.Inv) (hp : s.phase = .map) : (bankFilled s).Inv := by
  have hc := h.closeBank hp
  have hf := bankFilled_frame s
  refine .of_map (hf.phase.trans hp) (hf.err.trans (h.err_eq_zero (by simp [hp]))) (fun i _ => ?_) (fun _ => rfl)
    fun i h6 _ => ?_
  · exact BitVec.getElem_zero ..
  · have hw := fillFrom_chv (Machine.closeBank s).slot (Machine.closeBank s) i
    refine hw.trans ?_
    by_cases hi : (Machine.closeBank s).slot.index ≤ i.val
    · simp [hi]
    · rw [hc.slots_written i h6 (by omega), Bool.or_true]

/-- After PACK's checks the vector is complete and in range, and PAY is its packing (R124, R125). -/
theorem State.Inv.packed {s : State} (h : s.Inv) (hp : s.phase = .map) (hk : stateChecks .pack s = 0) :
    (completed .pack s).Inv where
  rejected_iff := by simp [completed, h.err_eq_zero (by simp [hp])]
  mask_above := h.mask_above
  full_closed := h.full_closed
  slots_written := h.slots_written
  idle_clear := by simp [completed]
  vector_checked := fun _ => (stateChecks_pack_eq_zero s).mp hk
  payload_current := fun _ => rfl
  frame_current := by simp [completed]

theorem State.Inv.assembled {s : State} (h : s.Inv) (hp : s.phase = .packed) : (completed .asm s).Inv where
  rejected_iff := by simp [completed, h.err_eq_zero (by simp [hp])]
  mask_above := h.mask_above
  full_closed := h.full_closed
  slots_written := h.slots_written
  idle_clear := by simp [completed]
  vector_checked := fun _ => h.vector_checked (.inl hp)
  payload_current := fun _ => h.payload_current (.inl hp)
  frame_current := fun _ => ⟨rfl, (assemble_crc s.pay (frameChecksum s.pay)).symm⟩

theorem State.Inv.completed {i : Instr} {s : State} (h : s.Inv) (hm : faultMask i s = 0) : (completed i s).Inv := by
  have ha := admits_of_faultMask_eq_zero hm
  cases i with
  | beginCycle => exact startCycle_inv s
  | qax k v => exact h.writeCh (of_decide_eq_true ha) k _
  | ldch k v => exact h.writeCh (of_decide_eq_true ha) k v
  | btn b => exact h.buttonTaken (of_decide_eq_true ha) b
  | bend => exact h.closeBank (of_decide_eq_true ha)
  | fill => exact h.bankFilled (of_decide_eq_true ha)
  | pack => exact h.packed (of_decide_eq_true ha) (stateChecks_of_faultMask_eq_zero hm)
  | asm => exact h.assembled (of_decide_eq_true ha)
  | rdch | rdp | rdf | stat => exact h

theorem State.Inv.exec {i : Instr} {s t : State} (h : s.Inv) (he : exec i s = .next t) : t.Inv := by
  obtain ⟨hm, rfl⟩ | ⟨hm, rfl⟩ := exec_next_cases he
  · exact h.faulted hm
  · exact (h.completed hm).of_toArch_eq rfl

/-- Settles O53: a step waits, resets, runs an operation, or takes the E_OP fault. -/
theorem stepKeepsInvariant : Obligations.StepKeepsInvariant := by
  intro s t h hstep
  obtain ⟨-, e⟩ | ⟨rest, -, e⟩ | ⟨w, rest, i, -, -, e⟩ | ⟨w, rest, err, -, -, e⟩ := step_cases s <;>
    rw [e] at hstep
  · cases hstep
    exact h
  · cases hstep
    exact State.Inv.of_toArch_eq invariantAtReset rfl
  · have hrest : State.Inv { s with input := rest } := h.of_toArch_eq rfl
    exact hrest.exec hstep
  · cases hstep
    have hrest : State.Inv { s with input := rest } := h.of_toArch_eq rfl
    exact hrest.faulted (by decide)

end Sys2Proof.Machine
end

section
/-! Which operation can change which element (R26), and what follows for ERR, CH and FRM over a step (R11, R16, R20). -/

namespace Sys2Proof.Machine

/-! ### The columns of the access matrix, for an operation that completes -/

theorem completed_ch {i : Instr} (h : writesChannels i = false) (s : State) : (completed i s).ch = s.ch := by
  cases i with
  | qax | ldch | btn | bend | fill => cases h
  | beginCycle | pack | asm | rdch | rdp | rdf | stat => rfl

theorem completed_chv {i : Instr} (h : writesChannels i = false) (hb : i ≠ .beginCycle) (s : State) :
    (completed i s).chv = s.chv := by
  cases i with
  | beginCycle => exact absurd rfl hb
  | qax | ldch | btn | bend | fill => cases h
  | pack | asm | rdch | rdp | rdf | stat => rfl

theorem completed_bank {i : Instr} (h : writesBank i = false) (hb : i ≠ .beginCycle) (s : State) :
    (completed i s).slot = s.slot ∧ (completed i s).bpos = s.bpos ∧ (completed i s).mask = s.mask := by
  cases i with
  | beginCycle => exact absurd rfl hb
  | btn | bend | fill => cases h
  | qax | ldch | pack | asm | rdch | rdp | rdf | stat => exact ⟨rfl, rfl, rfl⟩

theorem completed_pay {i : Instr} (h : i ≠ .pack) (s : State) : (completed i s).pay = s.pay := by
  cases i with
  | pack => exact absurd rfl h
  | qax | ldch | btn | bend | fill => exact (completed_frame rfl s).pay
  | beginCycle | asm | rdch | rdp | rdf | stat => rfl

theorem completed_crca_frm {i : Instr} (h : i ≠ .asm) (s : State) :
    (completed i s).crca = s.crca ∧ (completed i s).frm = s.frm := by
  cases i with
  | asm => exact absurd rfl h
  | qax | ldch | btn | bend | fill => exact ⟨(completed_frame rfl s).crca, (completed_frame rfl s).frm⟩
  | beginCycle | pack | rdch | rdp | rdf | stat => exact ⟨rfl, rfl⟩

theorem completed_err {i : Instr} (h : i ≠ .beginCycle) (s : State) : (completed i s).err = s.err := by
  cases i with
  | beginCycle => exact absurd rfl h
  | qax | ldch | btn | bend | fill => exact (completed_frame rfl s).err
  | pack | asm | rdch | rdp | rdf | stat => rfl

theorem completed_input (i : Instr) (s : State) : (completed i s).input = s.input := by
  cases i with
  | qax | ldch | btn | bend | fill => exact (completed_frame rfl s).input
  | beginCycle | pack | asm | rdch | rdp | rdf | stat => rfl

/-- Settles O50: a fault entry changes no element of the matrix, a completed operation those of its row. -/
theorem accessMatrix : Obligations.AccessMatrix := by
  intro i s t he
  obtain ⟨hm, rfl⟩ | ⟨hm, rfl⟩ := exec_next_cases he
  · exact ⟨fun h => absurd rfl h, fun h => absurd rfl h, by simp, fun h => absurd rfl h, by simp, fun _ => rfl, rfl⟩
  · refine ⟨fun h => ?_, fun h => ?_, fun h => ?_, fun h => ?_, fun h => ?_, fun h => absurd hm h, completed_input i s⟩
    · by_contra hw
      exact h (completed_ch (Bool.eq_false_of_not_eq_true hw) s)
    · by_contra hw
      rw [not_or] at hw
      exact h (completed_chv (Bool.eq_false_of_not_eq_true hw.1) hw.2 s)
    · by_contra hw
      rw [not_or] at hw
      obtain ⟨hslot, hbpos, hmask⟩ := completed_bank (Bool.eq_false_of_not_eq_true hw.1) hw.2 s
      simp [hslot, hbpos, hmask] at h
    · by_contra hw
      exact h (completed_pay hw s)
    · by_contra hw
      obtain ⟨hcrca, hfrm⟩ := completed_crca_frm hw s
      simp [hcrca, hfrm] at h

/-! ### ERR bits are sticky -/

/-- BEGIN has one word (R62). -/
theorem eq_of_decode_begin {w : CommandWord} (h : decode w = .ok .beginCycle) : w = 0x100000 := by
  unfold decode at h
  split at h
  case h_1 hop =>
    obtain ⟨hz, -⟩ := acceptIf_eq_ok.mp h
    simp only [Bool.and_eq_true, decide_eq_true_eq] at hz
    obtain ⟨ha, hd⟩ := hz
    have hop : opField w = 1 := BitVec.eq_of_toNat_eq hop
    rw [← commandWord_fields w, hop, ha, hd]
    rfl
  all_goals simp [acceptIf_eq_ok] at h

theorem faulted_err_get {s : State} {b : Fin 4} (m : BitVec 4) (h : s.err[b] = true) :
    (s.faulted m).err[b] = true := by
  rw [Fin.getElem_fin] at h ⊢
  rw [State.faulted_err, BitVec.getElem_or, h, Bool.true_or]

theorem exec_err_sticky {i : Instr} {s t : State} {b : Fin 4} (hi : i ≠ .beginCycle) (he : exec i s = .next t)
    (h : s.err[b] = true) : t.err[b] = true := by
  obtain ⟨-, rfl⟩ | ⟨-, rfl⟩ := exec_next_cases he
  · exact faulted_err_get _ h
  · rwa [State.answered_err, completed_err hi]

/-- Settles O47: among commands only BEGIN clears ERR, and BEGIN has one word. -/
theorem errBitsSticky : Obligations.ErrBitsSticky := by
  intro s t hstep hr hb b h
  obtain ⟨-, e⟩ | ⟨rest, hin, -⟩ | ⟨w, rest, i, hin, hd, e⟩ | ⟨w, rest, err, -, -, e⟩ := step_cases s
  · cases e.symm.trans hstep
    exact h
  · simp [hin] at hr
  · have hi : i ≠ .beginCycle := by
      rintro rfl
      simp [hin, eq_of_decode_begin hd] at hb
    exact exec_err_sticky (s := { s with input := rest }) hi (e.symm.trans hstep) h
  · cases e.symm.trans hstep
    exact faulted_err_get (s := { s with input := rest }) _ h

/-! ### The frame within DONE -/

/-- ASM is not admitted in DONE, so no operation changes a finished frame (R155). -/
theorem exec_frm_of_done {i : Instr} {s t : State} (hp : s.phase = .done) (he : exec i s = .next t) :
    t.frm = s.frm := by
  obtain ⟨-, rfl⟩ | ⟨hm, rfl⟩ := exec_next_cases he
  · rfl
  · have hi : i ≠ .asm := by
      rintro rfl
      have ha := admits_of_faultMask_eq_zero hm
      simp [admits, hp] at ha
    exact (completed_crca_frm hi s).2

theorem step_frm_of_done {s t : State} (hp : s.phase = .done) (hstep : step s = .next t)
    (hr : s.input.head? ≠ some .reset) : t.frm = s.frm := by
  obtain ⟨-, e⟩ | ⟨rest, hin, -⟩ | ⟨w, rest, i, -, -, e⟩ | ⟨w, rest, err, -, -, e⟩ := step_cases s
  · cases e.symm.trans hstep
    rfl
  · simp [hin] at hr
  · exact exec_frm_of_done (s := { s with input := rest }) hp (e.symm.trans hstep)
  · cases e.symm.trans hstep
    rfl

/-- Settles O51: no event but a reset changes FRM, and outside DONE the phase check of RDF refuses. -/
theorem frameImmutableInDone : Obligations.FrameImmutableInDone := by
  intro s t hp hstep hr
  refine ⟨step_frm_of_done hp hstep hr, fun hn k => ?_⟩
  rw [exec_rdf, if_neg hn]

/-! ### Channel values -/

/-- The values that QAX, the banks and the filler can give a channel (R11). -/
def InMappedSpan (c : Channel) : Prop := 172 ≤ c.toNat ∧ c.toNat ≤ 2219

theorem quantizeLevel_bounds (v : Int) : 172 ≤ quantizeLevel v ∧ quantizeLevel v ≤ 1811 := by
  have hclamp (r : Nat) (hr : 172 ≤ r) :
      172 ≤ (if r > 1811 then 1811 else r) ∧ (if r > 1811 then 1811 else r) ≤ 1811 := by
    split <;> omega
  simp only [quantizeLevel, chMin, chMax]
  split
  · omega
  · exact hclamp _ (Nat.le_add_right ..)

theorem quantize_inMappedSpan (v : BitVec 16) : InMappedSpan ((quantize v).setWidth 12) := by
  have hb := quantizeLevel_bounds (s16 v)
  simp only [InMappedSpan, quantize, BitVec.toNat_setWidth, BitVec.toNat_ofNat]
  omega

theorem bankValue_inMappedSpan (m : BitVec 11) : InMappedSpan (bankValue m) := by
  have hm := m.isLt
  simp only [InMappedSpan, bankValue_toNat, chMin]
  omega

/-- Every channel of `t` is as in `s` or has a value in the span. -/
def ChannelsMapped (s t : State) : Prop := ∀ k : Fin 16, t.ch[k] = s.ch[k] ∨ InMappedSpan t.ch[k]

theorem writeCh_channelsMapped (k : Fin 16) {v : Channel} (hv : InMappedSpan v) (s : State) :
    ChannelsMapped s (writeCh k v s) := by
  intro l
  by_cases hl : l = k
  · subst hl
    rw [writeCh_ch_self]
    exact .inr hv
  · exact .inl (writeCh_ch_other s v hl)

theorem bankCommit_channelsMapped (j : Fin 10) (m : BitVec 11) (s : State) :
    ChannelsMapped s (bankCommit j m s) :=
  writeCh_channelsMapped (slotChannel j) (bankValue_inMappedSpan m) s

theorem buttonTaken_channelsMapped (b : Bool) (s : State) : ChannelsMapped s (buttonTaken b s) := by
  obtain ⟨-, e⟩ | ⟨j, -, _, e⟩ | ⟨j, -, e⟩ := buttonTaken_cases b s <;> rw [e]
  · exact fun _ => .inl rfl
  · exact fun _ => .inl rfl
  · exact bankCommit_channelsMapped j _ s

theorem closeBank_channelsMapped (s : State) : ChannelsMapped s (closeBank s) := by
  obtain ⟨j, -, -, e⟩ | ⟨-, e⟩ := closeBank_cases s <;> rw [e]
  · exact bankCommit_channelsMapped j _ s
  · exact fun _ => .inl rfl

theorem bankFilled_channelsMapped (s : State) : ChannelsMapped s (bankFilled s) := by
  intro k
  have hk : (bankFilled s).ch[k] = _ := fillFrom_ch (closeBank s).slot (closeBank s) k
  rw [hk]
  split
  · exact .inr (by unfold InMappedSpan; decide)
  · exact closeBank_channelsMapped s k

theorem completed_channelsMapped {i : Instr} (hi : ∀ k v, i ≠ .ldch k v) (s : State) :
    ChannelsMapped s (completed i s) := by
  cases i with
  | ldch k v => exact absurd rfl (hi k v)
  | qax k v => exact writeCh_channelsMapped k (quantize_inMappedSpan v) s
  | btn b => exact buttonTaken_channelsMapped b s
  | bend => exact closeBank_channelsMapped s
  | fill => exact bankFilled_channelsMapped s
  | beginCycle | pack | asm | rdch | rdp | rdf | stat => exact fun _ => .inl rfl

/-- Settles O25: a fault changes no channel, and what completes writes values of the span. -/
theorem onlyLdchWritesAbove2219 : Obligations.OnlyLdchWritesAbove2219 := by
  intro i s t hi he
  obtain ⟨-, rfl⟩ | ⟨-, rfl⟩ := exec_next_cases he
  · exact fun _ => .inl rfl
  · exact completed_channelsMapped hi s

end Sys2Proof.Machine
end

section
/-! States that differ in gated data only (R12, R18, R20, R24) stay so under every operation and every event. -/

namespace Sys2Proof.Machine

/-! ### What the two states have in common -/

/-- The checks of R187 read no gated data. -/
theorem Indist.faultMask_eq {s t : State} (h : Indist s t) (i : Instr) : faultMask i s = faultMask i t := by
  have hch : ∀ k : Fin 16, (s.chv[k] = true ∧ 2047 < s.ch[k].toNat) ↔ (t.chv[k] = true ∧ 2047 < t.ch[k].toNat) := by
    intro k
    rw [← h.chv]
    exact and_congr_right fun hk => by rw [h.ch k hk]
  have hchecks : stateChecks i s = stateChecks i t := by
    cases i with
    | rdch k => simp only [stateChecks, h.chv]
    | pack =>
      simp only [stateChecks, hch]
      simp only [h.chv]
    | beginCycle | qax | ldch | btn | bend | fill | asm | rdp | rdf | stat => rfl
  rw [faultMask, faultMask, h.phase, hchecks]

/-- A read-out that completes returns data that its gate has opened (R47 (c)). -/
theorem Indist.readData_eq {i : Instr} {s t : State} (h : Indist s t) (hm : faultMask i s = 0) :
    readData i s = readData i t := by
  have ha := admits_of_faultMask_eq_zero hm
  cases i with
  | rdch k =>
    have hk : s.chv[k] = true := by
      by_contra hn
      have hc := stateChecks_of_faultMask_eq_zero hm
      simp only [stateChecks, if_neg hn] at hc
      exact absurd hc (by decide)
    simp only [readData, h.ch k hk]
  | rdp k => simp only [readData, h.pay (by simpa [admits] using ha)]
  | rdf k => simp only [readData, h.frm (by simpa [admits] using ha)]
  | stat sel => simp only [readData, statusWord0, statusWord1, h.chv, h.bpos, h.slot, h.phase]
  | beginCycle | qax | ldch | btn | bend | fill | pack | asm => rfl

theorem Indist.ch_eq {s t : State} (h : Indist s t) (hw : ∀ k : Fin 16, s.chv[k] = true) : s.ch = t.ch :=
  Vector.ext fun k hk => h.ch ⟨k, hk⟩ (hw ⟨k, hk⟩)

/-! ### Each shared operation on both states -/

theorem Indist.withInput {s t : State} (h : Indist s t) (rest : List HostEvent) :
    Indist { s with input := rest } { t with input := rest } := { h with input := rfl }

theorem Indist.answered {s t : State} (h : Indist s t) (r : BitVec 16) : Indist (s.answered r) (t.answered r) :=
  { h with responses := by simp [h.responses, h.err] }

theorem Indist.faulted {s t : State} (h : Indist s t) (m : BitVec 4) : Indist (s.faulted m) (t.faulted m) :=
  { h with
    phase := rfl
    err := by simp [h.err]
    responses := by simp [h.responses, h.err]
    pay := by simp
    frm := by simp }

/-- After BEGIN every gate is shut, so only the ports have to agree (R24). -/
theorem indist_startCycle {s t : State} (hin : s.input = t.input) (hr : s.responses = t.responses) :
    Indist (startCycle s) (startCycle t) where
  phase := rfl
  err := rfl
  chv := rfl
  slot := rfl
  bpos := rfl
  mask := rfl
  input := hin
  responses := hr
  ch := by simp
  pay := by simp
  frm := by simp

theorem Indist.writeCh {s t : State} (h : Indist s t) (k : Fin 16) (v : Channel) :
    Indist (writeCh k v s) (writeCh k v t) :=
  { h with
    chv := by simp [h.chv]
    ch := fun l hl => by
      by_cases hlk : l = k
      · rw [hlk, writeCh_ch_self, writeCh_ch_self]
      · rw [writeCh_chv_other s v hlk] at hl
        rw [writeCh_ch_other s v hlk, writeCh_ch_other t v hlk, h.ch l hl] }

/-- The bank state is not gated: giving both states the same one keeps them alike. -/
theorem Indist.withBank {s t : State} (h : Indist s t) (slot : Slot) (bpos : Fin 11) (mask : BitVec 11) :
    Indist { s with slot := slot, bpos := bpos, mask := mask } { t with slot := slot, bpos := bpos, mask := mask } :=
  { h with slot := rfl, bpos := rfl, mask := rfl }

theorem Indist.bankCommit {s t : State} (h : Indist s t) (j : Fin 10) (m : BitVec 11) :
    Indist (bankCommit j m s) (bankCommit j m t) :=
  (h.writeCh (slotChannel j) (bankValue m)).withBank (slotAfter j) 0 0

theorem Indist.takeButton {s t : State} (h : Indist s t) (j : Fin 10) (b : Bool) :
    Indist (takeButton j b s) (takeButton j b t) := by
  by_cases hb : s.bpos.val < 10
  · rw [takeButton_of_lt j b hb, takeButton_of_lt j b (h.bpos ▸ hb)]
    exact { h with bpos := by simp [h.bpos], mask := by simp [h.mask, h.bpos] }
  · rw [takeButton_of_ge j b hb, takeButton_of_ge j b (h.bpos ▸ hb), ← h.mask, ← h.bpos]
    exact h.bankCommit j _

theorem Indist.buttonTaken {s t : State} (h : Indist s t) (b : Bool) : Indist (buttonTaken b s) (buttonTaken b t) := by
  unfold Machine.buttonTaken
  rw [← h.slot]
  cases s.slot with
  | full => exact h
  | free j => exact h.takeButton j b

theorem Indist.closeBank {s t : State} (h : Indist s t) : Indist (closeBank s) (closeBank t) := by
  unfold Machine.closeBank
  rw [← h.slot, ← h.bpos, ← h.mask]
  cases s.slot with
  | full => exact h
  | free j =>
    by_cases hb : 0 < s.bpos.val
    · simpa only [if_pos hb] using h.bankCommit j s.mask
    · simpa only [if_neg hb] using h

theorem Indist.fillFrom {s t : State} (h : Indist s t) (slot : Slot) : Indist (fillFrom slot s) (fillFrom slot t) := by
  unfold Machine.fillFrom
  induction bankSlots generalizing s t with
  | nil => exact h
  | cons k l ih =>
    rw [List.foldl_cons, List.foldl_cons]
    apply ih
    split
    · exact h.writeCh k _
    · exact h

theorem Indist.bankFilled {s t : State} (h : Indist s t) : Indist (bankFilled s) (bankFilled t) := by
  unfold Machine.bankFilled
  rw [← h.closeBank.slot]
  exact (h.closeBank.fillFrom _).withBank .full 0 0

/-- PACK opens the gate of PAY only when every channel's gate is open (R124). -/
theorem Indist.packed {s t : State} (h : Indist s t) (hw : ∀ k : Fin 16, s.chv[k] = true) :
    Indist (completed .pack s) (completed .pack t) :=
  { h with
    phase := rfl
    pay := fun _ => by simp only [completed, h.ch_eq hw]
    frm := by simp [completed] }

theorem Indist.assembled {s t : State} (h : Indist s t) (hp : s.phase = .packed) :
    Indist (completed .asm s) (completed .asm t) :=
  { h with
    phase := rfl
    pay := fun _ => h.pay (.inl hp)
    frm := fun _ => by simp only [completed, h.pay (.inl hp)] }

theorem Indist.completed {i : Instr} {s t : State} (h : Indist s t) (hm : faultMask i s = 0) :
    Indist (completed i s) (completed i t) := by
  cases i with
  | beginCycle => exact indist_startCycle h.input h.responses
  | qax k v => exact h.writeCh k _
  | ldch k v => exact h.writeCh k v
  | btn b => exact h.buttonTaken b
  | bend => exact h.closeBank
  | fill => exact h.bankFilled
  | pack =>
    have hw := (stateChecks_pack_eq_zero s).mp (stateChecks_of_faultMask_eq_zero hm)
    exact h.packed fun k => (hw k).1
  | asm => exact h.assembled (of_decide_eq_true (admits_of_faultMask_eq_zero hm))
  | rdch | rdp | rdf | stat => exact h

/-! ### Operations, steps and runs -/

theorem Indist.exec {i : Instr} {s t s' : State} (h : Indist s t) (he : exec i s = .next s') :
    ∃ t', exec i t = .next t' ∧ Indist s' t' := by
  obtain ⟨hm, rfl⟩ | ⟨hm, rfl⟩ := exec_next_cases he
  · refine ⟨t.faulted (faultMask i s), ?_, h.faulted _⟩
    rw [h.faultMask_eq] at hm ⊢
    rw [exec_eq, if_neg hm]
  · refine ⟨(Machine.completed i t).answered (readData i s), ?_, (h.completed hm).answered _⟩
    rw [h.readData_eq hm, exec_eq, if_pos (h.faultMask_eq i ▸ hm)]

/-- Settles O55: both states take the same event, and each kind of event keeps them alike. -/
theorem gatedDataUnobservable : Obligations.GatedDataUnobservable := by
  intro s t s' h hstep
  obtain ⟨hin, e⟩ | ⟨rest, hin, e⟩ | ⟨w, rest, i, hin, hd, e⟩ | ⟨w, rest, err, hin, hd, e⟩ := step_cases s <;>
    rw [e] at hstep <;> have hin' := h.input.symm.trans hin
  · cases hstep
    exact ⟨t, step_of_no_input hin', h⟩
  · cases hstep
    refine ⟨_, step_of_reset hin', ?_⟩
    exact ⟨rfl, rfl, rfl, rfl, rfl, rfl, rfl, h.responses, fun _ _ => rfl, fun _ => rfl, fun _ => rfl⟩
  · rw [step_of_decode_ok hin' hd]
    exact (h.withInput rest).exec hstep
  · cases hstep
    exact ⟨_, step_of_decode_error hin' hd, (h.withInput rest).faulted 0x4⟩

theorem Indist.runSteps {s t : State} (h : Indist s t) (n : Nat) :
    ∃ s' t', runSteps n s = .next s' ∧ runSteps n t = .next t' ∧ Indist s' t' := by
  induction n generalizing s t with
  | zero => exact ⟨s, t, rfl, rfl, h⟩
  | succ n ih =>
    obtain ⟨s₁, hs⟩ := exists_step_next s
    obtain ⟨t₁, ht, h₁⟩ := gatedDataUnobservable s t s₁ h hs
    simpa only [Machine.runSteps, hs, ht] using ih h₁

/-- Settles O54: BEGIN shuts every gate, and the ports are those of one state. -/
theorem beginForgetsOldData : Obligations.BeginForgetsOldData := by
  intro s ch pay crca frm
  refine ⟨_, _, exec_begin _, exec_begin _, Indist.answered ?_ 0⟩
  exact indist_startCycle rfl rfl

/-- In IDLE with nothing written every gate is shut, so CH, PAY, CRCA and FRM may hold anything (R25). -/
theorem indist_reset (ch : ChannelVector) (pay : Payload) (crca : Byte) (frm : Frame) (events : List HostEvent) :
    Indist { State.reset with input := events }
      { State.reset with ch := ch, pay := pay, crca := crca, frm := frm, input := events } where
  phase := rfl
  err := rfl
  chv := rfl
  slot := rfl
  bpos := rfl
  mask := rfl
  input := rfl
  responses := rfl
  ch := by simp [State.reset, Arch.reset]
  pay := by simp [State.reset, Arch.reset]
  frm := by simp [State.reset, Arch.reset]

/-- Settles O56: the two runs start alike and every step keeps them so. -/
theorem resetContentsUnobservable : Obligations.ResetContentsUnobservable := by
  intro ch pay crca frm events n
  obtain ⟨t, u, ht, hu, h⟩ := (indist_reset ch pay crca frm events).runSteps n
  exact ⟨t, u, ht, hu, h.responses, h.phase, h.err⟩

end Sys2Proof.Machine
end

section
/-! The bit packer's layout (R41, R42, R44): the channels' bits form one stream, and `pack` puts bit n of the stream
at payload bit address n. -/

namespace Sys2Proof.Machine

/-- Bit n of the fields laid end to end, 11 bits each, least significant first (R42); false past the last field. -/
def fieldStreamBit (cs : List Field) (n : Nat) : Bool :=
  (cs[n / 11]?.getD 0).getLsbD (n % 11)

theorem fieldStreamBit_of_length_le {cs : List Field} {n : Nat} (h : 11 * cs.length ≤ n) :
    fieldStreamBit cs n = false := by
  have hn : cs[n / 11]? = none := List.getElem?_eq_none (by omega)
  simp [fieldStreamBit, hn]

theorem fieldStreamBit_cons_of_lt (c : Field) (cs : List Field) {n : Nat} (h : n < 11) :
    fieldStreamBit (c :: cs) n = c.getLsbD n := by
  simp [fieldStreamBit, Nat.div_eq_of_lt h, Nat.mod_eq_of_lt h]

theorem fieldStreamBit_cons_of_le (c : Field) (cs : List Field) {n : Nat} (h : 11 ≤ n) :
    fieldStreamBit (c :: cs) n = fieldStreamBit cs (n - 11) := by
  obtain ⟨m, rfl⟩ := Nat.exists_eq_add_of_le' h
  simp [fieldStreamBit]

/-- Bit n of the stream is bit n mod 11 of channel n div 11. -/
theorem fieldStreamBit_toList (cv : FieldVector) (i : Fin 16) (j : Fin 11) :
    fieldStreamBit cv.toList (11 * i.val + j.val) = cv[i].getLsbD j.val := by
  have hq : (11 * i.val + j.val) / 11 = i.val := by omega
  have hr : (11 * i.val + j.val) % 11 = j.val := by omega
  simp [fieldStreamBit, hq, hr]

theorem payloadBit_zero (a : Fin 192) : payloadBit (Vector.replicate 24 0) a = false := by
  simp [payloadBit]

theorem payloadBit_packPieces (p : Payload) {off : Nat} (c : Field) (a : Fin 192) (hoff : off ≤ 165) :
    payloadBit (packPieces p off c.toNat) a =
      (payloadBit p a || (decide (off ≤ a.val) && c.getLsbD (a.val - off))) := by
  have h := packPieces_bit p hoff c.isLt (k := a.val / 8) (j := a.val % 8) (by omega) (by omega)
  rwa [Nat.div_add_mod, BitVec.testBit_toNat] at h

/-- The loop ORs the stream of its channels into the payload from its bit offset on (R121). -/
theorem payloadBit_packFrom (cs : List Field) (off : Nat) (p : Payload) (a : Fin 192)
    (hlen : off + 11 * cs.length ≤ 176) :
    payloadBit (packFrom cs off p) a =
      (payloadBit p a || (decide (off ≤ a.val) && fieldStreamBit cs (a.val - off))) := by
  induction cs generalizing off p with
  | nil => simp [packFrom, fieldStreamBit_of_length_le]
  | cons c cs ih =>
    rw [List.length_cons] at hlen
    rw [packFrom, ih _ _ (by omega), payloadBit_packPieces p c a (by omega)]
    obtain hbefore | hown | hafter : a.val < off ∨ (off ≤ a.val ∧ a.val - off < 11) ∨ off + 11 ≤ a.val := by omega
    · have hnext : ¬ off + 11 ≤ a.val := by omega
      simp [hbefore.not_ge, hnext]
    · obtain ⟨hle, hlt⟩ := hown
      have hnext : ¬ off + 11 ≤ a.val := by omega
      simp [hle, hnext, fieldStreamBit_cons_of_lt c cs hlt]
    · have hle : off ≤ a.val := by omega
      have hge : 11 ≤ a.val - off := by omega
      simp [hle, hafter, BitVec.getLsbD_of_ge c _ hge, fieldStreamBit_cons_of_le c cs hge, Nat.sub_sub]

theorem payloadBit_pack (cv : FieldVector) (a : Fin 192) :
    payloadBit (pack cv) a = fieldStreamBit cv.toList a.val := by
  rw [pack, payloadBit_packFrom _ _ _ _ (by simp), payloadBit_zero]
  simp

/-- Settles O26: the payload's bits are the channels' bit stream, which ends at bit 176. -/
theorem packBitLayout : Obligations.PackBitLayout := by
  intro cv
  constructor
  · intro i j
    rw [payloadBit_pack, fieldStreamBit_toList]
  · intro a ha
    rw [payloadBit_pack]
    exact fieldStreamBit_of_length_le (by simpa using ha)

end Sys2Proof.Machine
end

section
/-! The decoder and the encoder are inverse to each other (R60 to R64): a decoded word is made of its opcode and of its
operands, and its must-be-zero bits are those above the operands. -/

namespace Sys2Proof

/-! ### Must-be-zero bits, as a bound on the field -/

theorem extractLsb'_eq_zero_iff_lt {n k m : Nat} (x : BitVec n) (h : n ≤ k + m) :
    x.extractLsb' k m = 0 ↔ x.toNat < 2 ^ k := by
  have hx : x.toNat < 2 ^ k * 2 ^ m := by
    rw [← Nat.pow_add]
    exact x.isLt.trans_le (Nat.pow_le_pow_right two_pos h)
  rw [← BitVec.toNat_inj, BitVec.extractLsb'_toNat, Nat.shiftRight_eq_div_pow,
    Nat.mod_eq_of_lt (Nat.div_lt_of_lt_mul hx), BitVec.ofNat_eq_ofNat, BitVec.toNat_ofNat, Nat.zero_mod,
    Nat.div_eq_zero_iff_lt (Nat.two_pow_pos k)]

theorem and_allOnes_shiftLeft_eq_zero_iff_lt {n : Nat} (x : BitVec n) (k : Nat) :
    x &&& BitVec.allOnes n <<< k = 0 ↔ x.toNat < 2 ^ k := by
  have hx : x.toNat / 2 ^ k * 2 ^ k < 2 ^ n := (Nat.div_mul_le_self _ _).trans_lt x.isLt
  rw [← BitVec.shiftLeft_ushiftRight, ← BitVec.toNat_inj, BitVec.toNat_shiftLeft, BitVec.toNat_ushiftRight,
    Nat.shiftRight_eq_div_pow, Nat.shiftLeft_eq, Nat.mod_eq_of_lt hx]
  simp

/-- The low bits are the whole field when the bits above them are zero. -/
theorem setWidth_extractLsb'_of_lt {n k : Nat} {x : BitVec n} (h : x.toNat < 2 ^ k) :
    (x.extractLsb' 0 k).setWidth n = x := by
  apply BitVec.eq_of_toNat_eq
  simp [Nat.mod_eq_of_lt h, Nat.mod_eq_of_lt x.isLt]

/-- One-bit operands (R63 (c), (f)): bit 0 is the whole field when the bits above it are zero. -/
theorem setWidth_ofBool_getLsbD_of_lt {n : Nat} {x : BitVec n} (h : x.toNat < 2 ^ 1) :
    (BitVec.ofBool (x.getLsbD 0)).setWidth n = x := by
  apply BitVec.eq_of_toNat_eq
  rw [← BitVec.setWidth_one, BitVec.toNat_setWidth, BitVec.toNat_setWidth, Nat.mod_eq_of_lt h,
    Nat.mod_eq_of_lt x.isLt]

/-! ### Operands and fields -/

theorem indexOperand_val (w : CommandWord) : (indexOperand w).val = (aField w).toNat := rfl

theorem byteOperand_val (w : CommandWord) : (byteOperand w).val = (dField w).toNat % 2 ^ 5 := by
  simp [byteOperand]

@[simp] theorem indexOperand_commandWord (op : BitVec 4) (k : Fin 16) (d : BitVec 16) :
    indexOperand (commandWord op (BitVec.ofFin k) d) = k := by
  apply Fin.ext
  rw [indexOperand_val, aField_commandWord, BitVec.toNat_ofFin]

@[simp] theorem byteOperand_commandWord (op a : BitVec 4) (k : Fin 32) :
    byteOperand (commandWord op a (BitVec.ofNat 16 k.val)) = k := by
  apply Fin.ext
  rw [byteOperand_val, dField_commandWord, BitVec.toNat_ofNat]
  omega

theorem ofNat_indexOperand (w : CommandWord) : BitVec.ofNat 4 (indexOperand w).val = aField w := by
  rw [indexOperand_val, BitVec.ofNat_toNat, BitVec.setWidth_eq]

theorem ofNat_byteOperand_of_lt {w : CommandWord} (h : (dField w).toNat < 2 ^ 5) :
    BitVec.ofNat 16 (byteOperand w).val = dField w := by
  rw [byteOperand_val, Nat.mod_eq_of_lt h, BitVec.ofNat_toNat, BitVec.setWidth_eq]

theorem commandWord_eq_iff {op a : BitVec 4} {d : BitVec 16} {w : CommandWord} :
    commandWord op a d = w ↔ (opField w).toNat = op.toNat ∧ a = aField w ∧ d = dField w := by
  constructor
  · rintro rfl
    simp
  · rintro ⟨hop, rfl, rfl⟩
    rw [← BitVec.eq_of_toNat_eq hop, commandWord_fields]

/-! ### Decode of encode -/

theorem decode_encode (i : Instr) : decode (encode i) = .ok i := by
  cases i with
  | beginCycle | bend | fill | pack | asm => rfl
  | qax s v => simp [encode, decode]
  | ldch k v =>
    have hz : (v.setWidth 16).extractLsb' 12 4 = 0 := by
      rw [extractLsb'_eq_zero_iff_lt _ (by decide), BitVec.toNat_setWidth]
      omega
    have hv : (v.setWidth 16).extractLsb' 0 12 = v := by
      rw [← BitVec.setWidth_eq_extractLsb' (by decide), BitVec.setWidth_setWidth_of_le v (by decide),
        BitVec.setWidth_eq]
    simp [encode, decode, acceptIf_eq_ok, hz, hv]
  | btn b => cases b <;> rfl
  | rdch k => simp [encode, decode, acceptIf_eq_ok]
  | rdp k | rdf k =>
    have hz : (BitVec.ofNat 16 k.val).extractLsb' 5 11 = 0 := by
      rw [extractLsb'_eq_zero_iff_lt _ (by decide), BitVec.toNat_ofNat]
      omega
    simp [encode, decode, acceptIf_eq_ok, hz]
  | stat sel => cases sel <;> rfl

/-! ### Encode of decode -/

theorem encode_of_decode {w : CommandWord} {i : Instr} (h : decode w = .ok i) : encode i = w := by
  unfold decode at h
  split at h
  case h_1 hop | h_5 hop | h_6 hop | h_7 hop | h_8 hop =>
    obtain ⟨hz, rfl⟩ := acceptIf_eq_ok.mp h
    obtain ⟨ha, hd⟩ : aField w = 0 ∧ dField w = 0 := by simpa using hz
    exact commandWord_eq_iff.mpr ⟨hop, ha.symm, hd.symm⟩
  case h_2 hop =>
    cases h
    exact commandWord_eq_iff.mpr ⟨hop, ofNat_indexOperand w, rfl⟩
  case h_3 hop =>
    obtain ⟨hz, rfl⟩ := acceptIf_eq_ok.mp h
    have hd : (dField w).toNat < 2 ^ 12 := (extractLsb'_eq_zero_iff_lt _ (by decide)).mp (of_decide_eq_true hz)
    exact commandWord_eq_iff.mpr ⟨hop, ofNat_indexOperand w, setWidth_extractLsb'_of_lt hd⟩
  case h_4 hop =>
    obtain ⟨hz, rfl⟩ := acceptIf_eq_ok.mp h
    obtain ⟨ha, hd⟩ : aField w = 0 ∧ (dField w).extractLsb' 1 15 = 0 := by simpa using hz
    rw [extractLsb'_eq_zero_iff_lt _ (by decide)] at hd
    exact commandWord_eq_iff.mpr ⟨hop, ha.symm, setWidth_ofBool_getLsbD_of_lt hd⟩
  case h_9 hop =>
    obtain ⟨hz, rfl⟩ := acceptIf_eq_ok.mp h
    exact commandWord_eq_iff.mpr ⟨hop, ofNat_indexOperand w, (of_decide_eq_true hz).symm⟩
  case h_10 hop | h_11 hop =>
    obtain ⟨hz, rfl⟩ := acceptIf_eq_ok.mp h
    obtain ⟨ha, hd⟩ : aField w = 0 ∧ (dField w).extractLsb' 5 11 = 0 := by simpa using hz
    rw [extractLsb'_eq_zero_iff_lt _ (by decide)] at hd
    exact commandWord_eq_iff.mpr ⟨hop, ha.symm, ofNat_byteOperand_of_lt hd⟩
  case h_12 hop =>
    obtain ⟨hz, rfl⟩ := acceptIf_eq_ok.mp h
    obtain ⟨ha, hd⟩ : (aField w).extractLsb' 1 3 = 0 ∧ dField w = 0 := by simpa using hz
    rw [extractLsb'_eq_zero_iff_lt _ (by decide)] at ha
    exact commandWord_eq_iff.mpr ⟨hop, setWidth_ofBool_getLsbD_of_lt ha, hd.symm⟩
  case h_13 => cases h

/-- The words that decode are the encodings, each to its own operation. -/
theorem decode_eq_ok_iff {w : CommandWord} {i : Instr} : decode w = .ok i ↔ encode i = w := by
  refine ⟨encode_of_decode, ?_⟩
  rintro rfl
  exact decode_encode i

/-- Settles O7: an operand fits its field, so the fields of the encoding give it back. -/
theorem decodeInvertsEncode : Obligations.DecodeInvertsEncode := decode_encode

/-- Settles O8: a decoded word has no bit outside its opcode and its operands. -/
theorem encodeInvertsDecode : Obligations.EncodeInvertsDecode := fun _ _ => encode_of_decode

/-- Settles O11: each word is the encoding of its operation. -/
theorem sampleWordsDecode : Obligations.SampleWordsDecode := by
  unfold Obligations.SampleWordsDecode
  simp only [decode_eq_ok_iff]
  decide

end Sys2Proof
end

section
/-! The opcode map (R62): a row's mask and match say which fields a word must have, and what it leaves open are the
operands (R63). -/

namespace Sys2Proof

/-! ### The rows and the encodings -/

theorem encode_matches_row (i : Instr) : Laws.EncodingRow.Statement i := by
  cases i with
  | beginCycle => exact Laws.EncodingRow.beginCycle
  | qax s v => exact Laws.EncodingRow.qax s v
  | ldch k v => exact Laws.EncodingRow.ldch k v
  | btn b => exact Laws.EncodingRow.btn b
  | bend => exact Laws.EncodingRow.bend
  | fill => exact Laws.EncodingRow.fill
  | pack => exact Laws.EncodingRow.pack
  | asm => exact Laws.EncodingRow.asm
  | rdch k => exact Laws.EncodingRow.rdch k
  | rdp k => exact Laws.EncodingRow.rdp k
  | rdf k => exact Laws.EncodingRow.rdf k
  | stat sel => exact Laws.EncodingRow.stat sel

theorem opcodeRow_eq_of_mnemonic_eq {r q : OpcodeRow} (hr : r ∈ opcodeTable) (hq : q ∈ opcodeTable)
    (h : r.mnemonic = q.mnemonic) : r = q := by
  have hall : ∀ r ∈ opcodeTable, ∀ q ∈ opcodeTable, r.mnemonic = q.mnemonic → r = q := by decide
  exact hall r hr q hq h

/-- The mask of a row whose operands are the low `na` bits of a and the low `nd` bits of d (R62). -/
def rowMask (na nd : Nat) : CommandWord :=
  commandWord (BitVec.allOnes 4) (BitVec.allOnes 4 <<< na) (BitVec.allOnes 16 <<< nd)

/-- What `cmd & mask = match` asks of the word's fields. -/
theorem and_rowMask_eq_iff (w : CommandWord) (op : BitVec 4) (na nd : Nat) :
    w &&& rowMask na nd = commandWord op 0 0 ↔
      (opField w).toNat = op.toNat ∧ (aField w).toNat < 2 ^ na ∧ (dField w).toNat < 2 ^ nd := by
  conv_lhs => rw [← commandWord_fields w, rowMask, Laws.EncodingRow.commandWord_and, BitVec.and_allOnes]
  rw [commandWord_eq_iff, opField_commandWord, aField_commandWord, dField_commandWord,
    and_allOnes_shiftLeft_eq_zero_iff_lt, and_allOnes_shiftLeft_eq_zero_iff_lt, eq_comm]

theorem decode_eq_ok_of_fields {w : CommandWord} {i : Instr} {op a : BitVec 4} {d : BitVec 16}
    (hi : encode i = commandWord op a d) (hop : (opField w).toNat = op.toNat) (ha : a = aField w)
    (hd : d = dField w) : decode w = .ok i :=
  decode_eq_ok_iff.mpr (hi.trans (commandWord_eq_iff.mpr ⟨hop, ha, hd⟩))

/-- A word of an operation without operands: its row fixes every bit. -/
theorem decode_of_and_allOnes {w : CommandWord} {i : Instr} (h : w &&& BitVec.allOnes 24 = encode i) :
    decode w = .ok i :=
  decode_eq_ok_iff.mpr (h.symm.trans BitVec.and_allOnes)

theorem zero_eq_of_lt {n : Nat} {x : BitVec n} (h : x.toNat < 2 ^ 0) : 0 = x :=
  (BitVec.eq_of_toNat_eq (by simpa using h)).symm

/-- A word that matches a row decodes: the operands are the bits the row leaves open. -/
theorem exists_decode_of_matches {w : CommandWord} {r : OpcodeRow} (hr : r ∈ opcodeTable)
    (h : w &&& r.mask = r.pattern) : ∃ i, decode w = .ok i ∧ i.mnemonic = r.mnemonic := by
  simp only [opcodeTable, List.mem_cons, List.not_mem_nil, or_false] at hr
  obtain rfl | rfl | rfl | rfl | rfl | rfl | rfl | rfl | rfl | rfl | rfl | rfl := hr
  · exact ⟨.beginCycle, decode_of_and_allOnes h, rfl⟩
  · obtain ⟨hop, -, -⟩ := (and_rowMask_eq_iff w 0x2 4 16).mp h
    exact ⟨.qax (indexOperand w) (dField w), decode_eq_ok_of_fields rfl hop (ofNat_indexOperand w) rfl, rfl⟩
  · obtain ⟨hop, -, hd⟩ := (and_rowMask_eq_iff w 0x3 4 12).mp h
    exact ⟨.ldch (indexOperand w) ((dField w).extractLsb' 0 12),
      decode_eq_ok_of_fields rfl hop (ofNat_indexOperand w) (setWidth_extractLsb'_of_lt hd), rfl⟩
  · obtain ⟨hop, ha, hd⟩ := (and_rowMask_eq_iff w 0x4 0 1).mp h
    exact ⟨.btn ((dField w).getLsbD 0),
      decode_eq_ok_of_fields rfl hop (zero_eq_of_lt ha) (setWidth_ofBool_getLsbD_of_lt hd), rfl⟩
  · exact ⟨.bend, decode_of_and_allOnes h, rfl⟩
  · exact ⟨.fill, decode_of_and_allOnes h, rfl⟩
  · exact ⟨.pack, decode_of_and_allOnes h, rfl⟩
  · exact ⟨.asm, decode_of_and_allOnes h, rfl⟩
  · obtain ⟨hop, -, hd⟩ := (and_rowMask_eq_iff w 0x9 4 0).mp h
    exact ⟨.rdch (indexOperand w),
      decode_eq_ok_of_fields rfl hop (ofNat_indexOperand w) (zero_eq_of_lt hd), rfl⟩
  · obtain ⟨hop, ha, hd⟩ := (and_rowMask_eq_iff w 0xA 0 5).mp h
    exact ⟨.rdp (byteOperand w),
      decode_eq_ok_of_fields rfl hop (zero_eq_of_lt ha) (ofNat_byteOperand_of_lt hd), rfl⟩
  · obtain ⟨hop, ha, hd⟩ := (and_rowMask_eq_iff w 0xB 0 5).mp h
    exact ⟨.rdf (byteOperand w),
      decode_eq_ok_of_fields rfl hop (zero_eq_of_lt ha) (ofNat_byteOperand_of_lt hd), rfl⟩
  · obtain ⟨hop, ha, hd⟩ := (and_rowMask_eq_iff w 0xC 1 0).mp h
    exact ⟨.stat ((aField w).getLsbD 0),
      decode_eq_ok_of_fields rfl hop (setWidth_ofBool_getLsbD_of_lt ha) (zero_eq_of_lt hd), rfl⟩

theorem mnemonic_eq_iff_matches {w : CommandWord} {r : OpcodeRow} (hr : r ∈ opcodeTable) :
    (∃ i, decode w = .ok i ∧ i.mnemonic = r.mnemonic) ↔ w &&& r.mask = r.pattern := by
  refine ⟨?_, exists_decode_of_matches hr⟩
  rintro ⟨i, hd, hi⟩
  obtain ⟨q, hq, hqi, hm⟩ := encode_matches_row i
  rwa [opcodeRow_eq_of_mnemonic_eq hr hq (hi.symm.trans hqi.symm), ← encode_of_decode hd]

/-- Settles O9: the encoding of an operation matches the row of its mnemonic, and no two rows share one. -/
theorem decodeFollowsOpcodeMap : Obligations.DecodeFollowsOpcodeMap := by
  refine ⟨fun w r hr => mnemonic_eq_iff_matches hr, fun w r q hr hq hwr hwq => ?_⟩
  obtain ⟨i, hdi, hi⟩ := exists_decode_of_matches hr hwr
  obtain ⟨j, hdj, hj⟩ := exists_decode_of_matches hq hwq
  cases hdi.symm.trans hdj
  exact opcodeRow_eq_of_mnemonic_eq hr hq (hi.symm.trans hj)

/-! ### Operands as arithmetic on the word -/

/-- Settles O10: the word is the encoding, a sum of its opcode and operands at the weights of R60. -/
theorem operandsTakenFromFields : Obligations.OperandsTakenFromFields := by
  intro w i h
  obtain rfl := encode_of_decode h
  cases i with
  | beginCycle | bend | fill | pack | asm => rfl
  | qax s v =>
    have hd : (encode (.qax s v)).toNat % 2 ^ 16 = v.toNat := by
      simp only [encode, commandWord_toNat]
      omega
    simp only [hd]
    refine ⟨?_, rfl⟩
    simp only [encode, commandWord_toNat, BitVec.toNat_ofNat]
    omega
  | ldch k v =>
    simp only [encode, commandWord_toNat, BitVec.toNat_ofNat, BitVec.toNat_setWidth]
    omega
  | rdch k | rdp k | rdf k =>
    simp only [encode, commandWord_toNat, BitVec.toNat_ofNat]
    omega
  | btn b => cases b <;> decide
  | stat sel => cases sel <;> decide

end Sys2Proof
end

section
/-! One response per command word (R66): what a completed operation puts into it. -/

namespace Sys2Proof.Machine

theorem completed_responses (i : Instr) (s : State) : (completed i s).responses = s.responses := by
  cases i with
  | qax | ldch | btn | bend | fill => exact (completed_frame rfl s).responses
  | beginCycle | pack | asm | rdch | rdp | rdf | stat => rfl

theorem readsOut_of_readData_ne_zero {i : Instr} {s : State} (h : readData i s ≠ 0) : readsOut i = true := by
  cases i with
  | beginCycle | qax | ldch | btn | bend | fill | pack | asm => exact absurd rfl h
  | rdch | rdp | rdf | stat => rfl

/-- Read-out writes nothing (R26). -/
theorem completed_of_readsOut {i : Instr} (h : readsOut i = true) (s : State) : completed i s = s := by
  cases i with
  | beginCycle | qax | ldch | btn | bend | fill | pack | asm => cases h
  | rdch | rdp | rdf | stat => rfl

/-- Settles O48: an illegal word and a faulting operation answer with rdata 0, a completed one with what it reads. -/
theorem oneResponsePerCommand : Obligations.OneResponsePerCommand := by
  intro s w rest hin
  rcases hd : decode w with e | i
  · exact ⟨_, 0, step_of_decode_error hin hd, rfl, rfl, fun h => absurd rfl h⟩
  · rw [step_of_decode_ok hin hd, exec_eq]
    split
    case isFalse => exact ⟨_, 0, rfl, rfl, rfl, fun h => absurd rfl h⟩
    case isTrue =>
      refine ⟨_, readData i { s with input := rest }, rfl, completed_input i _, ?_, fun hr => ?_⟩
      · rw [State.answered_responses, completed_responses, State.answered_err]
      · have hi := readsOut_of_readData_ne_zero hr
        exact ⟨⟨i, rfl, hi⟩, by rw [completed_of_readsOut hi]⟩

end Sys2Proof.Machine
end

section
/-! The transform of R80 as integer arithmetic on the sample, and what follows for its values (R81, R83). -/

namespace Sys2Proof.Machine

/-! ### The transform -/

theorem s16_eq_toInt (v : BitVec 16) : s16 v = v.toInt := by
  rw [s16, BitVec.toInt_eq_toNat_cond]
  split <;> split <;> omega

theorem quantizeLevel_of_neg {v : Int} (h : v + axMax < 0) : quantizeLevel v = chMin := if_pos h

/-- From the low end on, the high saturation is a minimum. -/
theorem quantizeLevel_of_nonneg {v : Int} (h : 0 ≤ v + axMax) :
    quantizeLevel v = min chMax (chMin + ((v + axMax).toNat * chSpan + qround) / axSpan) := by
  refine (if_neg (not_lt.mpr h)).trans ?_
  split <;> omega

/-- The natural-number quotient of R80 is the floor quotient of the integers. -/
theorem quantizeLevel_eq (v : Int) :
    (quantizeLevel v : Int) = if v + 32767 < 0 then 172 else min 1811 (172 + (v + 32767) * 1639 / 65534) := by
  split
  case isTrue hv =>
    rw [quantizeLevel_of_neg hv, chMin, Nat.cast_ofNat]
  case isFalse hv =>
    rw [quantizeLevel_of_nonneg (not_lt.mp hv)]
    simp only [axMax, chMin, chMax, chSpan, axSpan, qround]
    omega

/-- The saturated value fits the 11-bit field, so nothing is truncated. -/
theorem quantize_toNat (v : BitVec 16) : (quantize v).toNat = quantizeLevel v.toInt := by
  obtain ⟨-, hmax⟩ := quantizeLevel_bounds v.toInt
  rw [quantize, s16_eq_toInt, BitVec.toNat_ofNat]
  omega

/-- Settles O12: the 11 bits hold the level, and the level is the integer transform. -/
theorem quantizeFormula : Obligations.QuantizeFormula := by
  intro v
  rw [quantize_toNat, quantizeLevel_eq]

/-! ### Clamping the sample instead of the value -/

/-- The sample clamped to [-32767, 32767] (R81). -/
def clampedSample (v : BitVec 16) : Int := max (-32767) (min 32767 v.toInt)

/-- Only -32768 is out of the clamp's range. -/
theorem clampedSample_of_ne {v : BitVec 16} (h : v.toInt ≠ -32768) : clampedSample v = v.toInt := by
  have hmin := v.le_toInt
  have hmax := v.toInt_lt
  unfold clampedSample
  omega

theorem clampedSample_mono {u v : BitVec 16} (h : u.toInt ≤ v.toInt) : clampedSample u ≤ clampedSample v :=
  max_le_max_left _ (min_le_min_left _ h)

theorem quantize_eq_clamped (v : BitVec 16) :
    ((quantize v).toNat : Int) = 172 + (clampedSample v + 32767) * 1639 / 65534 := by
  have hmax := v.toInt_lt
  rw [quantizeFormula v, clampedSample]
  split <;> omega

/-- Settles O13: the endpoints are three values, and the clamp is `quantize_eq_clamped`. -/
theorem quantizeSaturates : Obligations.QuantizeSaturates :=
  ⟨by decide, by decide, by decide, quantize_eq_clamped⟩

/-- Settles O14: the clamp, the product and the floor quotient are each monotone. -/
theorem quantizeMonotone : Obligations.QuantizeMonotone := by
  intro u v h
  have hc := clampedSample_mono h
  have hu := quantize_eq_clamped u
  have hv := quantize_eq_clamped v
  have hq : (clampedSample u + 32767) * 1639 / 65534 ≤ (clampedSample v + 32767) * 1639 / 65534 :=
    Int.ediv_le_ediv (by decide) (by omega)
  omega

/-! ### The inputs of a level -/

/-- Settles O16: the bounds are those of a floor quotient equal to n. -/
theorem quantizeLevelInputs : Obligations.QuantizeLevelInputs := by
  intro v n _ hv
  have hq := quantize_eq_clamped v
  rw [clampedSample_of_ne hv] at hq
  rw [← Int.le_ediv_iff_mul_le (by decide), ← Int.ediv_lt_iff_lt_mul (by decide)]
  omega

/-- The least sample of level n: the ceiling of n * 65534 / 1639, shifted back (R83 (d)). -/
def levelSample (n : Nat) : BitVec 16 := BitVec.ofInt 16 ((n * 65534 + 1638) / 1639 - 32767)

theorem levelSample_toInt {n : Nat} (h : n ≤ 1639) :
    (levelSample n).toInt = ((n : Int) * 65534 + 1638) / 1639 - 32767 :=
  BitVec.toInt_ofInt_eq_self (by decide) (by omega) (by omega)

theorem quantize_levelSample {n : Nat} (h : n ≤ 1639) : (quantize (levelSample n)).toNat = 172 + n := by
  have ht := levelSample_toInt h
  exact (quantizeLevelInputs _ n h (by omega)).mpr (by omega)

/-- Settles O15: every value lies in the span, and each level of the span has its least sample. -/
theorem quantizeOntoUsableSpan : Obligations.QuantizeOntoUsableSpan := by
  intro c
  constructor
  · rintro ⟨v, rfl⟩
    rw [quantize_toNat]
    exact quantizeLevel_bounds v.toInt
  · rintro ⟨hmin, hmax⟩
    refine ⟨levelSample (c - 172), ?_⟩
    rw [quantize_levelSample (by omega)]
    omega

end Sys2Proof.Machine
end

section
/-! The operations QAX and LDCH (R85, R86): after the phase and index checks each is one write of a channel register. -/

namespace Sys2Proof.Machine

/-- `t` is `s` with the value `c` written into channel `k` and nothing else changed (R12). -/
structure ChannelWritten (s t : State) (k : Fin 16) (c : Channel) : Prop where
  value : t.ch[k] = c
  valid : t.chv[k] = true
  others : ∀ j : Fin 16, j ≠ k → t.ch[j] = s.ch[j] ∧ t.chv[j] = s.chv[j]
  frame : t = { s with ch := t.ch, chv := t.chv }

theorem writeCh_channelWritten (s : State) (k : Fin 16) (c : Channel) : ChannelWritten s (writeCh k c s) k c where
  value := writeCh_ch_self s k c
  valid := writeCh_chv_self s k c
  others _ h := ⟨writeCh_ch_other s c h, writeCh_chv_other s c h⟩
  frame := rfl

/-- A quantized sample is stored as it is: the channel register is wider than the field. -/
theorem quantize_setWidth_toNat (v : BitVec 16) : ((quantize v).setWidth 12).toNat = (quantize v).toNat :=
  BitVec.toNat_setWidth_of_le (by decide)

/-- Settles O17: the phase is checked before the slot, and slots 0..5 take the write. -/
theorem qaxByRule : Obligations.QaxByRule := by
  intro s k v
  refine ⟨fun hp => ?_, fun hp hk => ?_, fun hp hk => ?_⟩
  · rw [exec_qax, if_neg hp]
  · rw [exec_qax, if_pos hp, if_neg (by omega)]
  · have hw := writeCh_channelWritten s k ((quantize v).setWidth 12)
    refine ⟨_, by rw [exec_qax, if_pos hp, if_pos hk], ?_, hw.valid, hw.others, hw.frame⟩
    rw [hw.value, quantize_setWidth_toNat]

/-- Settles O18: in MAP the write takes every 12-bit value. -/
theorem ldchByRule : Obligations.LdchByRule := by
  intro s k v
  refine ⟨fun hp => ?_, fun hp => ?_⟩
  · rw [exec_ldch, if_neg hp]
  · have hw := writeCh_channelWritten s k v
    exact ⟨_, by rw [exec_ldch, if_pos hp], hw.value, hw.valid, hw.others, hw.frame⟩

end Sys2Proof.Machine
end

section
/-! The operations BTN, BEND and FILL (R104 to R107): the phase check, and then what each leaves channel by channel. -/

namespace Sys2Proof.Machine

/-- The operations that write the bank fault outside MAP and otherwise complete with rdata 0. -/
theorem exec_writesBank {i : Instr} (hi : writesBank i = true) (s : State) :
    exec i s = if s.phase = .map then .next ((completed i s).answered 0) else .next (s.faulted 0x8) := by
  cases i with
  | btn | bend | fill =>
    rw [exec_eq]
    by_cases hp : s.phase = .map <;> simp [faultMask, admits, Instr.WellFormed, stateChecks, readData, hp]
  | beginCycle | qax | ldch | pack | asm | rdch | rdp | rdf | stat => cases hi

theorem exec_writesBank_of_map {i : Instr} (hi : writesBank i = true) {s : State} (hp : s.phase = .map) :
    exec i s = .next ((completed i s).answered 0) := by
  rw [exec_writesBank hi, if_pos hp]

theorem exec_writesBank_of_not_map {i : Instr} (hi : writesBank i = true) {s : State} (hp : s.phase ≠ .map) :
    exec i s = .next (s.faulted 0x8) := by
  rw [exec_writesBank hi, if_neg hp]

/-- The frame of the mapping operations as one equation. -/
theorem MappingFrame.eq {s t : State} (h : MappingFrame s t) :
    t = { s with ch := t.ch, chv := t.chv, slot := t.slot, bpos := t.bpos, mask := t.mask } := by
  obtain ⟨⟨_, _, _, _, _, _, _, _, _, _⟩, _, _⟩ := t
  obtain ⟨rfl, rfl, rfl, rfl, rfl, rfl, rfl⟩ := h
  rfl

/-! ### The bank -/

/-- Settles O19: the 12 bits hold the sum, and the two limits are 172 below 1812 and 2048. -/
theorem bankValueLiteral : Obligations.BankValueLiteral := by
  intro m
  have hv : (bankValue m).toNat = 172 + m.toNat := bankValue_toNat m
  exact ⟨hv, by omega, by omega⟩

/-- Settles O20: the write of the slot's channel, and the bank state after it. -/
theorem bankCommitByRule : Obligations.BankCommitByRule := by
  intro s j m
  refine ⟨_, rfl, ?_, bankCommit_chv_self j m s, fun k hk => ?_, ?_, rfl, rfl, (bankCommit_frame j m s).eq⟩
  · rw [bankCommit_ch_self, bankValue_toNat, chMin]
  · exact ⟨bankCommit_ch_other m s hk, bankCommit_chv_other m s hk⟩
  · rw [bankCommit_index, Slot.index]
    omega

/-! ### BTN and BEND -/

/-- A button's mask bit is the number `b << pos` (R104). -/
theorem buttonBit_eq_ofNat (b : Bool) (pos : Fin 11) : buttonBit b pos = BitVec.ofNat 11 (b.toNat <<< pos.val) := by
  cases b with
  | false => simp [buttonBit]
  | true =>
    apply BitVec.eq_of_toNat_eq
    simp [buttonBit, Nat.shiftLeft_eq]

theorem buttonTaken_of_full (b : Bool) {s : State} (h : s.slot = .full) : buttonTaken b s = s := by
  simp [buttonTaken, h]

/-- Settles O21: after the phase check, full, eleventh and earlier buttons are told apart by SLOT and BPOS. -/
theorem btnByRule : Obligations.BtnByRule := by
  intro s b j
  refine ⟨exec_writesBank_of_not_map rfl, fun hp hs => ?_, fun hp hs hb => ?_, fun hp hs hb => ?_⟩
  · rw [exec_writesBank_of_map rfl hp, completed, buttonTaken_of_full b hs]
  · rw [exec_writesBank_of_map rfl hp, completed, buttonTaken_of_free b hs, takeButton_of_ge j b (by omega),
      buttonBit_eq_ofNat]
  · refine ⟨buttonTaken b s, exec_writesBank_of_map rfl hp, ?_⟩
    rw [buttonTaken_of_free b hs, takeButton_of_lt j b hb, buttonBit_eq_ofNat]
    exact ⟨rfl, rfl, rfl⟩

theorem closeBank_of_open {s : State} {j : Fin 10} (hs : s.slot = .free j) (hb : 0 < s.bpos.val) :
    closeBank s = bankCommit j s.mask s := by
  simp [closeBank, hs, hb]

theorem closeBank_of_closed {s : State} (h : s.slot = .full ∨ s.bpos.val = 0) : closeBank s = s := by
  obtain ⟨j, hs, hb, -⟩ | ⟨-, e⟩ := closeBank_cases s
  · rw [hs] at h
    simp [hb.ne'] at h
  · exact e

/-- Settles O22: BEND is the phase check and `closeBank`. -/
theorem bendByRule : Obligations.BendByRule := by
  intro s j
  refine ⟨exec_writesBank_of_not_map rfl, fun hp hs hb => ?_, fun hp hc => ?_⟩
  · rw [exec_writesBank_of_map rfl hp, completed, closeBank_of_open hs hb]
  · rw [exec_writesBank_of_map rfl hp, completed, closeBank_of_closed hc]

/-! ### FILL -/

theorem bankFilled_ch (s : State) (k : Fin 16) :
    (bankFilled s).ch[k] =
      if (closeBank s).slot.index ≤ k.val then BitVec.ofNat 12 chMid else (closeBank s).ch[k] :=
  fillFrom_ch (closeBank s).slot (closeBank s) k

theorem bankFilled_chv (s : State) (k : Fin 16) :
    (bankFilled s).chv[k] = (decide ((closeBank s).slot.index ≤ k.val) || (closeBank s).chv[k]) :=
  fillFrom_chv (closeBank s).slot (closeBank s) k

/-- The slots used before FILL keep their channels: an open bank is closed at SLOT. -/
theorem bankFilled_below {s : State} {k : Fin 16} (h : k.val < s.slot.index) :
    (bankFilled s).ch[k] = s.ch[k] ∧ (bankFilled s).chv[k] = s.chv[k] := by
  rw [bankFilled_ch, bankFilled_chv]
  obtain ⟨j, hs, -, e⟩ | ⟨-, e⟩ := closeBank_cases s <;> rw [e]
  · rw [hs, Slot.index] at h
    have hk : k ≠ slotChannel j := fun hk => by simp [hk] at h
    have hi : ¬(bankCommit j s.mask s).slot.index ≤ k.val := by
      rw [bankCommit_index]
      omega
    simp only [hi, if_false, decide_false, Bool.false_or]
    exact ⟨bankCommit_ch_other s.mask s hk, bankCommit_chv_other s.mask s hk⟩
  · simp [h.not_ge]

/-- The open bank takes the slot SLOT, every later slot the filler. -/
theorem bankFilled_from {s : State} {k : Fin 16} (h : s.slot.index ≤ k.val) :
    (bankFilled s).chv[k] = true ∧ (bankFilled s).ch[k] =
      if k.val = s.slot.index ∧ 0 < s.bpos.val then bankValue s.mask else BitVec.ofNat 12 chMid := by
  rw [bankFilled_ch, bankFilled_chv]
  obtain ⟨j, hs, hb, e⟩ | ⟨hc, e⟩ := closeBank_cases s <;> rw [e]
  · rw [hs, Slot.index] at h ⊢
    rw [bankCommit_index]
    by_cases hk : k.val = 6 + j.val
    · obtain rfl : k = slotChannel j := Fin.ext hk
      rw [bankCommit_ch_self, bankCommit_chv_self]
      simp [hb]
    · have hle : 7 + j.val ≤ k.val := by omega
      simp [hk, hle]
  · have hb : ¬0 < s.bpos.val := by
      obtain hf | hz := hc
      · rw [hf, Slot.index] at h
        omega
      · omega
    simp [h, hb]

/-- Settles O23: below SLOT, at SLOT and above it. -/
theorem fillByRule : Obligations.FillByRule := by
  intro s
  refine ⟨exec_writesBank_of_not_map rfl, fun hp => ?_⟩
  refine ⟨bankFilled s, exec_writesBank_of_map rfl hp, fun k => bankFilled_below, fun k hk => ?_,
    (bankFilled_frame s).eq⟩
  obtain ⟨hv, hc⟩ := bankFilled_from hk
  refine ⟨hv, ?_⟩
  rw [hc]
  split
  · exact bankValue_toNat s.mask
  · rfl

end Sys2Proof.Machine
end

section
/-! Streaming two button lists through BTN, BEND and FILL gives the channels of the reference multiplexer (R100, R108):
the banks closed so far and the buttons of the open bank are followed through the commands. -/

namespace Sys2Proof.Machine

/-! ### The reference, one button or one bank at a time -/

theorem buttonBit_get (b : Bool) (pos k : Fin 11) : (buttonBit b pos)[k] = (decide (pos = k) && b) := by
  by_cases h : pos = k
  · subst h
    cases b <;> simp [buttonBit]
  · rw [buttonBit_get_other b (Ne.symm h), decide_eq_false h, Bool.false_and]

theorem mask_or_get (x y : BitVec 11) (k : Fin 11) : (x ||| y)[k] = (x[k] || y[k]) :=
  BitVec.getElem_or k.isLt

theorem foldl_buttonBit_get (f : Fin 11 → Bool) (l : List (Fin 11)) (m : BitVec 11) (k : Fin 11) :
    (l.foldl (fun m i => m ||| buttonBit (f i) i) m)[k] = (m[k] || (decide (k ∈ l) && f k)) := by
  induction l generalizing m with
  | nil => simp
  | cons i l ih =>
    rw [List.foldl_cons, ih, mask_or_get, buttonBit_get]
    by_cases hi : i = k
    · subst hi
      cases f i <;> simp
    · simp [hi, Ne.symm hi]

theorem maskOf_get (bs : List Bool) (k : Fin 11) : (maskOf bs)[k] = bs.getD k.val false := by
  rw [maskOf, foldl_buttonBit_get (fun i => bs.getD i.val false)]
  simp

theorem maskOf_nil : maskOf [] = 0 := by
  decide

theorem getD_append_one (p : List Bool) (b : Bool) (k : Nat) :
    (p ++ [b]).getD k false = (p.getD k false || (decide (p.length = k) && b)) := by
  obtain hlt | rfl | hgt := Nat.lt_trichotomy k p.length
  · simp [List.getElem?_append_left hlt, hlt.ne']
  · simp
  · have hnone : (p ++ [b]).length ≤ k := by simpa using hgt
    simp [hgt.ne, List.getElem?_eq_none hgt.le, List.getElem?_eq_none hnone]

/-- BTN's OR is the mask of the bank with the button appended (R104). -/
theorem maskOf_append_one (p : List Bool) (b : Bool) (pos : Fin 11) (h : pos.val = p.length) :
    maskOf (p ++ [b]) = maskOf p ||| buttonBit b pos := by
  have hbit (k : Fin 11) : (maskOf (p ++ [b]))[k] = (maskOf p ||| buttonBit b pos)[k] := by
    rw [mask_or_get, maskOf_get, maskOf_get, buttonBit_get, getD_append_one, ← h]
    simp only [Fin.ext_iff]
  exact BitVec.eq_of_getElem_eq fun k hk => hbit ⟨k, hk⟩

theorem banksOf_nil : banksOf [] = [] := rfl

/-- A whole bank in front (R100). -/
theorem banksOf_append {p : List Bool} (hp : p.length = 11) (bs : List Bool) :
    banksOf (p ++ bs) = bankValue (maskOf p) :: banksOf bs := by
  have hn : ((p ++ bs).length + 10) / 11 = (bs.length + 10) / 11 + 1 := by
    rw [List.length_append]
    omega
  rw [banksOf, hn, List.range_succ_eq_map, List.map_cons, List.map_map, Nat.mul_zero, List.drop_zero,
    List.take_left' hp, banksOf]
  congr 1
  apply List.map_congr_left
  intro k _
  rw [Function.comp_apply, Nat.mul_succ, Nat.add_comm, ← hp, List.drop_length_add_append]

theorem banksOf_eq_singleton {p : List Bool} (hne : p ≠ []) (hlen : p.length ≤ 11) :
    banksOf p = [bankValue (maskOf p)] := by
  have hl := List.length_pos_iff.mpr hne
  have hn : (p.length + 10) / 11 = 1 := by omega
  rw [banksOf, hn]
  simp [List.take_of_length_le hlen]

/-! ### What the stream has done so far -/

/-- `t` is `s` with other values in CH, CHV, SLOT, BPOS and MASK and more responses given. -/
def MappedFrom (s t : State) : Prop := MappingFrame s { t with responses := s.responses }

theorem MappedFrom.refl (s : State) : MappedFrom s s := MappingFrame.refl s

theorem MappedFrom.mapping {s t u : State} (h : MappedFrom s t) (h' : MappingFrame t u) : MappedFrom s u where
  phase := h'.phase.trans h.phase
  err := h'.err.trans h.err
  pay := h'.pay.trans h.pay
  crca := h'.crca.trans h.crca
  frm := h'.frm.trans h.frm
  input := h'.input.trans h.input
  responses := rfl

theorem MappedFrom.answered {s t : State} (h : MappedFrom s t) (r : BitVec 16) : MappedFrom s (t.answered r) :=
  ⟨h.phase, h.err, h.pay, h.crca, h.frm, h.input, rfl⟩

theorem MappedFrom.eq {s t : State} (h : MappedFrom s t) :
    t = { s with ch := t.ch, chv := t.chv, slot := t.slot, bpos := t.bpos, mask := t.mask,
                 responses := t.responses } :=
  congrArg (fun u : State => { u with responses := t.responses }) (MappingFrame.eq h)

/-- From `s`, with no bank taken yet, the stream led to `t`: the values `banks` were committed in order, those
past the tenth dropped (R104), and while a slot is free the buttons `pending` are in the open bank. -/
structure Streamed (s : State) (banks : List Channel) (pending : List Bool) (t : State) : Prop where
  frame : MappedFrom s t
  axes : ∀ k : Fin 16, k.val < 6 → t.ch[k] = s.ch[k] ∧ t.chv[k] = s.chv[k]
  slot_index : t.slot.index = 6 + min 10 banks.length
  committed : ∀ (j : Fin 10) (c : Channel), banks[j.val]? = some c →
    t.ch[slotChannel j] = c ∧ t.chv[slotChannel j] = true
  pending_length : pending.length ≤ 10
  open_bank : ∀ j, t.slot = .free j → t.bpos.val = pending.length ∧ t.mask = maskOf pending
  full_closed : t.slot = .full → t.bpos = 0 ∧ t.mask = 0

theorem slotChannel_injective : Function.Injective slotChannel := by
  decide

section Stream

variable {s t : State} {banks : List Channel} {pending : List Bool}

theorem Streamed.start (hs : s.slot = .free 0) (hb : s.bpos = 0) (hm : s.mask = 0) : Streamed s [] [] s where
  frame := .refl s
  axes _ _ := ⟨rfl, rfl⟩
  slot_index := by simp [hs, Slot.index]
  committed := by simp
  pending_length := by simp
  open_bank _ _ := ⟨by simp [hb], hm.trans maskOf_nil.symm⟩
  full_closed _ := ⟨hb, hm⟩

theorem Streamed.answered (h : Streamed s banks pending t) (r : BitVec 16) :
    Streamed s banks pending (t.answered r) :=
  { h with frame := h.frame.answered r }

theorem Streamed.length_of_free (h : Streamed s banks pending t) {j : Fin 10} (hj : t.slot = .free j) :
    banks.length = j.val := by
  have hi := h.slot_index
  rw [hj, Slot.index] at hi
  omega

theorem Streamed.length_of_full (h : Streamed s banks pending t) (hf : t.slot = .full) : 10 ≤ banks.length := by
  have hi := h.slot_index
  rw [hf, Slot.index] at hi
  omega

/-- With every slot used, later banks and buttons are dropped (R104). -/
theorem Streamed.drop (h : Streamed s banks pending t) (hf : t.slot = .full) (more : List Channel)
    {p : List Bool} (hp : p.length ≤ 10) : Streamed s (banks ++ more) p t := by
  have hl := h.length_of_full hf
  exact
    { h with
      slot_index := by
        rw [h.slot_index, List.length_append]
        omega
      committed := fun j c hc => by
        rw [List.getElem?_append_left (by omega)] at hc
        exact h.committed j c hc
      pending_length := hp
      open_bank := by simp [hf] }

/-- A button before the eleventh joins the open bank (R104). -/
theorem Streamed.take (h : Streamed s banks pending t) (b : Bool) (hlen : pending.length < 10) :
    Streamed s banks (pending ++ [b]) (buttonTaken b t) := by
  rcases hs : t.slot with j | _
  · obtain ⟨hb, hm⟩ := h.open_bank j hs
    have hp : (pending ++ [b]).length = pending.length + 1 := List.length_append
    have hf := buttonTaken_frame b t
    rw [buttonTaken_of_free b hs, takeButton_of_lt j b (by omega)] at hf ⊢
    exact
      { h with
        frame := h.frame.mapping hf
        pending_length := by omega
        open_bank := fun _ _ => ⟨by simp [hb], by rw [maskOf_append_one pending b t.bpos hb, hm]⟩
        full_closed := by simp [hs] }
  · rw [buttonTaken_of_full b hs]
    simpa using h.drop hs [] (p := pending ++ [b]) (by simpa using hlen)

/-- A commit adds one bank to those closed so far (R107). -/
theorem Streamed.commit (h : Streamed s banks pending t) {j : Fin 10} (hj : t.slot = .free j) (m : BitVec 11) :
    Streamed s (banks ++ [bankValue m]) [] (bankCommit j m t) where
  frame := h.frame.mapping (bankCommit_frame j m t)
  axes k hk := by
    have hne : k ≠ slotChannel j := fun e => by simp [e] at hk
    rw [bankCommit_ch_other m t hne, bankCommit_chv_other m t hne]
    exact h.axes k hk
  slot_index := by
    rw [bankCommit_index, List.length_append, h.length_of_free hj, List.length_singleton]
    omega
  committed i c hc := by
    by_cases hi : i = j
    · subst hi
      rw [← h.length_of_free hj, List.getElem?_concat_length] at hc
      cases hc
      exact ⟨bankCommit_ch_self i m t, bankCommit_chv_self i m t⟩
    · have hne : i.val ≠ banks.length := fun e => hi (Fin.ext (e.trans (h.length_of_free hj)))
      have hlt : i.val < (banks ++ [bankValue m]).length := (List.getElem?_eq_some_iff.mp hc).1
      rw [List.length_append, List.length_singleton] at hlt
      rw [List.getElem?_append_left (by omega)] at hc
      have hs := slotChannel_injective.ne hi
      rw [bankCommit_ch_other m t hs, bankCommit_chv_other m t hs]
      exact h.committed i c hc
  pending_length := by simp
  open_bank _ _ := ⟨rfl, maskOf_nil.symm⟩
  full_closed _ := ⟨rfl, rfl⟩

/-- The eleventh button closes its bank (R104). -/
theorem Streamed.takeEleventh (h : Streamed s banks pending t) (b : Bool) (hlen : pending.length = 10) :
    Streamed s (banks ++ [bankValue (maskOf (pending ++ [b]))]) [] (buttonTaken b t) := by
  rcases hs : t.slot with j | _
  · obtain ⟨hb, hm⟩ := h.open_bank j hs
    rw [buttonTaken_of_free b hs, takeButton_of_ge j b (by omega), maskOf_append_one pending b t.bpos hb, hm]
    exact h.commit hs _
  · rw [buttonTaken_of_full b hs]
    exact h.drop hs _ (by simp)

/-- BEND closes the list's last, partly filled bank if there is one (R105). -/
theorem Streamed.close (h : Streamed s banks pending t) : Streamed s (banks ++ banksOf pending) [] (closeBank t) := by
  rcases hs : t.slot with j | _
  · obtain ⟨hb, hm⟩ := h.open_bank j hs
    by_cases hp : pending = []
    · subst hp
      rw [closeBank_of_closed (.inr hb), banksOf_nil, List.append_nil]
      exact h
    · have hpos := List.length_pos_iff.mpr hp
      rw [closeBank_of_open hs (by omega), banksOf_eq_singleton hp (by have := h.pending_length; omega), ← hm]
      exact h.commit hs _
  · rw [closeBank_of_closed (.inl hs)]
    exact h.drop hs _ (by simp)

theorem execAll_cons_of_map {i : Instr} (hi : writesBank i = true) {t : State} (hp : t.phase = .map)
    (is : List Instr) : execAll (i :: is) t = execAll is ((completed i t).answered 0) := by
  rw [execAll, exec_writesBank_of_map hi hp]

theorem Streamed.phase_map (h : Streamed s banks pending t) (hmap : s.phase = .map) : t.phase = .map :=
  h.frame.phase.trans hmap

/-- One controller's list, from buttons already taken: it commits the reference's banks (R100). -/
theorem Streamed.execAll_list (h : Streamed s banks pending t) (hmap : s.phase = .map) (bs : List Bool)
    (rest : List Instr) :
    ∃ u, Streamed s (banks ++ banksOf (pending ++ bs)) [] u ∧
      execAll (bs.map .btn ++ .bend :: rest) t = execAll rest u := by
  induction bs generalizing banks pending t with
  | nil =>
    rw [List.append_nil]
    exact ⟨_, h.close.answered 0, execAll_cons_of_map rfl (h.phase_map hmap) rest⟩
  | cons b bs ih =>
    have hexec : execAll ((b :: bs).map .btn ++ .bend :: rest) t =
        execAll (bs.map .btn ++ .bend :: rest) ((buttonTaken b t).answered 0) :=
      execAll_cons_of_map rfl (h.phase_map hmap) _
    rw [hexec, List.append_cons]
    obtain hlt | hten := h.pending_length.lt_or_eq
    · exact ih ((h.take b hlt).answered 0)
    · have heleven : (pending ++ [b]).length = 11 := by simp [hten]
      rw [banksOf_append heleven, List.append_cons]
      simpa only [List.nil_append] using ih ((h.takeEleventh b hten).answered 0)

/-- FILL after the last BEND: no bank is open, and the slots not yet used get the filler (R106). -/
theorem Streamed.filled (h : Streamed s banks [] t) (j : Fin 10) :
    (bankFilled t).ch[slotChannel j] = banks.getD j.val (BitVec.ofNat 12 chMid) ∧
      (bankFilled t).chv[slotChannel j] = true := by
  have hi := h.slot_index
  by_cases hj : j.val < banks.length
  · obtain ⟨hc, hv⟩ := bankFilled_below (s := t) (k := slotChannel j) (by rw [slotChannel_val]; omega)
    rw [hc, hv, List.getD_eq_getElem _ _ hj]
    exact h.committed j _ (List.getElem?_eq_getElem hj)
  · obtain ⟨hv, hc⟩ := bankFilled_from (s := t) (k := slotChannel j) (by rw [slotChannel_val]; omega)
    have hb : t.bpos.val = 0 := by
      rcases hs : t.slot with i | _
      · exact (h.open_bank i hs).1
      · exact congrArg Fin.val (h.full_closed hs).1
    rw [hc, List.getD_eq_default _ _ (by omega)]
    exact ⟨by simp [hb], hv⟩

end Stream

/-- Settles O24: each list commits its banks in order, and FILL gives the filler to the slots they leave. -/
theorem streamedButtonsMatchReference : Obligations.StreamedButtonsMatchReference := by
  intro s left right hmap hs hb hm
  obtain ⟨t, ht, hleft⟩ := (Streamed.start hs hb hm).execAll_list hmap left (right.map .btn ++ [.bend, .fill])
  obtain ⟨u, hu, hright⟩ := ht.execAll_list hmap right [.fill]
  have hfill := execAll_cons_of_map (i := .fill) rfl (hu.phase_map hmap) []
  refine ⟨(bankFilled u).answered 0, ?_, hu.filled, fun k hk => ?_, rfl, rfl, rfl, ?_⟩
  · rw [List.append_assoc, List.append_assoc]
    exact hleft.trans (hright.trans hfill)
  · obtain ⟨hc, hv⟩ := bankFilled_below (s := u) (k := k) (by have := u.slot.six_le_index; omega)
    obtain ⟨hc', hv'⟩ := hu.axes k hk
    exact ⟨hc.trans hc', hv.trans hv'⟩
  · exact ((hu.frame.mapping (bankFilled_frame u)).answered 0).eq

end Sys2Proof.Machine
end

section
/-! Place value: digits of w bits as one number (R122). Mathlib's bijection between digit vectors and numbers below
`(2 ^ w) ^ n` gives the digits of such a number and the numbers that are one. -/

namespace Sys2Proof.Machine

/-- Digits of w bits read as one little-endian number; `payloadInt` is the case of 24 bytes. -/
def placeValue {w n : Nat} (f : Fin n → BitVec w) : Nat := ∑ k : Fin n, (f k).toNat * 2 ^ (w * k.val)

section Digits
variable {w n : Nat}

theorem placeValue_eq_finFunctionFinEquiv (f : Fin n → BitVec w) :
    placeValue f = (finFunctionFinEquiv fun k => (f k).toFin).val := by
  simp only [placeValue, finFunctionFinEquiv_apply, pow_mul, BitVec.val_toFin]

theorem placeValue_lt (f : Fin n → BitVec w) : placeValue f < 2 ^ (w * n) := by
  rw [placeValue_eq_finFunctionFinEquiv, pow_mul]
  exact (finFunctionFinEquiv _).isLt

/-- Dividing by the digit's place and truncating recovers the digit. -/
theorem ofNat_placeValue_div (f : Fin n → BitVec w) (i : Fin n) :
    BitVec.ofNat w (placeValue f / 2 ^ (w * i.val)) = f i := by
  have h := congrFun (finFunctionFinEquiv.symm_apply_apply fun k => (f k).toFin) i
  apply BitVec.eq_of_toNat_eq
  rw [BitVec.toNat_ofNat, placeValue_eq_finFunctionFinEquiv, pow_mul]
  exact congrArg Fin.val h

/-- Every number below `2 ^ (w * n)` is the place value of its digits. -/
theorem placeValue_ofNat_div {N : Nat} (h : N < 2 ^ (w * n)) :
    placeValue (fun i : Fin n => BitVec.ofNat w (N / 2 ^ (w * i.val))) = N := by
  have hN : N < (2 ^ w) ^ n := by rwa [← pow_mul]
  have hd := congrArg Fin.val (finFunctionFinEquiv.apply_symm_apply ⟨N, hN⟩)
  simpa only [finFunctionFinEquiv_apply, finFunctionFinEquiv_symm_apply_val, placeValue, pow_mul,
    BitVec.toNat_ofNat] using hd

theorem testBit_placeValue (f : Fin n → BitVec w) (i : Fin n) {j : Nat} (hj : j < w) :
    (placeValue f).testBit (w * i.val + j) = (f i).getLsbD j := by
  rw [← ofNat_placeValue_div f i, BitVec.getLsbD_ofNat, Nat.testBit_div_two_pow, Nat.add_comm]
  simp [hj]

theorem testBit_placeValue_of_le (f : Fin n → BitVec w) {a : Nat} (ha : w * n ≤ a) :
    (placeValue f).testBit a = false :=
  Nat.testBit_lt_two_pow ((placeValue_lt f).trans_le (Nat.pow_le_pow_right (by decide) ha))

end Digits

end Sys2Proof.Machine
end

section
/-! The payload as one number, and the round trip through it (R122, R126). -/

namespace Sys2Proof.Machine

theorem payloadInt_eq_placeValue (p : Payload) : payloadInt p = placeValue fun k : Fin 24 => p[k] := rfl

theorem testBit_payloadInt (p : Payload) (a : Fin 192) : (payloadInt p).testBit a.val = payloadBit p a := by
  have h := testBit_placeValue (fun k : Fin 24 => p[k]) ⟨a.val / 8, by omega⟩ (j := a.val % 8) (by omega)
  rwa [Nat.div_add_mod] at h

/-- Byte k of the payload is the digit of its number at place 8k (R42). -/
theorem ofNat_payloadInt_div (p : Payload) (k : Fin 24) : BitVec.ofNat 8 (payloadInt p / 2 ^ (8 * k.val)) = p[k] :=
  ofNat_placeValue_div (fun k : Fin 24 => p[k]) k

theorem payloadInt_injective {p q : Payload} (h : payloadInt p = payloadInt q) : p = q := by
  ext1 k hk
  have hp := ofNat_payloadInt_div p ⟨k, hk⟩
  rw [h] at hp
  exact hp.symm.trans (ofNat_payloadInt_div q ⟨k, hk⟩)

theorem getElem_eq_zero_of_payloadInt_lt (p : Payload) (k : Fin 24) :
    payloadInt p < 2 ^ (8 * k.val) → p[k] = 0 := by
  intro h
  rw [← ofNat_payloadInt_div, Nat.div_eq_of_lt h]
  rfl

/-- The payload's number fits the 22 low bytes exactly when the two bytes above them are zero. -/
theorem payloadInt_lt_iff (p : Payload) : payloadInt p < 2 ^ 176 ↔ p[22] = 0 ∧ p[23] = 0 := by
  constructor
  · intro h
    have h184 := h.trans (Nat.pow_lt_pow_right Nat.one_lt_two (by decide : 176 < 184))
    exact ⟨getElem_eq_zero_of_payloadInt_lt p 22 h, getElem_eq_zero_of_payloadInt_lt p 23 h184⟩
  · rintro ⟨h22, h23⟩
    have hlow : payloadInt p = placeValue fun k : Fin 22 => p[k.val] := by
      rw [payloadInt, Fin.sum_univ_castSucc, Fin.sum_univ_castSucc]
      simp [placeValue, h22, h23]
    rw [hlow]
    exact placeValue_lt (w := 8) _

theorem payloadBit_pack_of_lt (cv : FieldVector) {a : Fin 192} (ha : a.val < 176) :
    payloadBit (pack cv) a = cv[(⟨a.val / 11, by omega⟩ : Fin 16)].getLsbD (a.val % 11) := by
  have h := (packBitLayout cv).1 ⟨a.val / 11, by omega⟩ ⟨a.val % 11, by omega⟩
  simpa only [Nat.div_add_mod] using h

/-- Settles O27: the payload's number and the fields' number have the same bits, by the layout of R42. -/
theorem packClosedForm : Obligations.PackClosedForm := by
  intro cv
  change _ = placeValue fun i : Fin 16 => cv[i]
  apply Nat.eq_of_testBit_eq
  intro a
  obtain hin | hpad | hout : a < 176 ∨ (176 ≤ a ∧ a < 192) ∨ 192 ≤ a := by omega
  · have hbit := testBit_placeValue (fun i : Fin 16 => cv[i]) ⟨a / 11, by omega⟩ (Nat.mod_lt a (by decide))
    rw [Nat.div_add_mod] at hbit
    rw [hbit, testBit_payloadInt _ ⟨a, by omega⟩, payloadBit_pack_of_lt cv hin]
  · rw [testBit_placeValue_of_le _ hpad.1, testBit_payloadInt _ ⟨a, hpad.2⟩]
    exact (packBitLayout cv).2 _ hpad.1
  · rw [payloadInt_eq_placeValue, testBit_placeValue_of_le _ hout, testBit_placeValue_of_le _ (by omega)]

theorem payloadInt_pack (cv : FieldVector) : payloadInt (pack cv) = placeValue fun i : Fin 16 => cv[i] :=
  packClosedForm cv

theorem unpack_pack (cv : FieldVector) : unpack (pack cv) = cv := by
  ext1 i hi
  rw [unpack, Vector.getElem_ofFn, payloadInt_pack]
  exact ofNat_placeValue_div (fun i : Fin 16 => cv[i]) ⟨i, hi⟩

/-- A payload below `2 ^ 176` is the packing of its own digits. -/
theorem pack_unpack {p : Payload} (h : payloadInt p < 2 ^ 176) : pack (unpack p) = p := by
  apply payloadInt_injective
  rw [payloadInt_pack]
  simp only [unpack, Fin.getElem_fin, Vector.getElem_ofFn]
  exact placeValue_ofNat_div (w := 11) h

/-- Settles O28: `pack` and `unpack` are inverse between the vectors and the payloads below `2 ^ 176`. -/
theorem packRoundTrip : Obligations.PackRoundTrip := by
  refine ⟨unpack_pack, fun p => ?_⟩
  rw [← payloadInt_lt_iff]
  constructor
  · rintro ⟨cv, rfl⟩
    rw [payloadInt_pack]
    exact placeValue_lt (w := 11) _
  · exact fun h => ⟨unpack p, pack_unpack h⟩

/-- Settles O29: a bit outside lane i is a bit of another lane, where the vectors agree, or lies above every lane. -/
theorem packLanesIndependent : Obligations.PackLanesIndependent := by
  intro cv d i heq a hout
  obtain hin | hpad : a.val < 176 ∨ 176 ≤ a.val := by omega
  · have hne : (⟨a.val / 11, by omega⟩ : Fin 16) ≠ i := by
      rintro rfl
      dsimp only at hout
      omega
    rw [payloadBit_pack_of_lt cv hin, payloadBit_pack_of_lt d hin, heq _ hne]
  · rw [(packBitLayout cv).2 a hpad, (packBitLayout d).2 a hpad]

end Sys2Proof.Machine
end

section
/-! PACK's checks and its completion (R124, R125). -/

namespace Sys2Proof.Machine

/-- In MAP a cause that PACK's checks find is its fault entry. -/
theorem exec_pack_of_stateChecks {s : State} {m : BitVec 4} (hmap : s.phase = .map) (hm : stateChecks .pack s = m)
    (hne : m ≠ 0) : exec .pack s = .next (s.faulted m) := by
  rw [exec_pack, if_pos hmap, hm, if_neg hne]

/-- Settles O30: the two checks of R124 are independent, and each clause fixes the result of both. -/
theorem packByRule : Obligations.PackByRule := by
  intro s
  refine ⟨fun hseq => ?_, fun hmap hun hfit => ?_, fun hmap hall hwide => ?_, fun hmap hun hwide => ?_,
    fun hmap hall hfit => ⟨channelFields s.ch, fun k => channelFields_toNat s.ch k (hfit k), ?_⟩⟩
  · rw [exec_pack, if_neg hseq]
  · exact exec_pack_of_stateChecks hmap (by rw [stateChecks, if_pos hun, if_neg hfit]; rfl) (by decide)
  · have hun : ¬ ∃ k : Fin 16, s.chv[k] = false := fun ⟨k, hk⟩ => by simp [hall k] at hk
    have hwritten : ∃ k : Fin 16, s.chv[k] = true ∧ 2047 < s.ch[k].toNat := hwide.imp fun k hk => ⟨hall k, hk⟩
    exact exec_pack_of_stateChecks hmap (by rw [stateChecks, if_neg hun, if_pos hwritten]; rfl) (by decide)
  · exact exec_pack_of_stateChecks hmap (by rw [stateChecks, if_pos hun, if_pos hwide]; rfl) (by decide)
  · rw [exec_pack, if_pos hmap, if_pos ((stateChecks_pack_eq_zero s).mpr fun k => ⟨hall k, hfit k⟩)]

end Sys2Proof.Machine
end

section
/-! The checksum: linear over XOR, a table look-up per byte, and the remainder modulo G(x) (R143, R144, R146). -/

namespace Sys2Proof.Machine

/-! ### Linearity (R143 (c)) -/

/-- The bit step without its branch: the bit shifted out selects what is XORed in. -/
theorem crcShift_eq (c : Byte) : crcShift c = c <<< 1 ^^^ if c.getLsbD 7 then crcPoly else 0 := by
  rw [crcShift]
  split
  · rfl
  · exact BitVec.xor_zero.symm

theorem ite_crcPoly_xor : ∀ p q : Bool, (if p ^^ q then crcPoly else 0) =
    (if p then crcPoly else 0) ^^^ if q then crcPoly else 0 := by decide

theorem crcShift_xor (c d : Byte) : crcShift (c ^^^ d) = crcShift c ^^^ crcShift d := by
  simp only [crcShift_eq, BitVec.shiftLeft_xor_distrib, BitVec.getLsbD_xor, ite_crcPoly_xor]
  ac_rfl

theorem repeat_crcShift_xor (n : Nat) (c d : Byte) :
    Nat.repeat crcShift n (c ^^^ d) = Nat.repeat crcShift n c ^^^ Nat.repeat crcShift n d := by
  induction n with
  | zero => rfl
  | succ n ih => simp only [Nat.repeat, ih, crcShift_xor]

theorem crc8Update_xor (c e b d : Byte) :
    crc8Update (c ^^^ e) (b ^^^ d) = crc8Update c b ^^^ crc8Update e d := by
  rw [crc8Update, show c ^^^ e ^^^ (b ^^^ d) = (c ^^^ b) ^^^ (e ^^^ d) by ac_rfl, repeat_crcShift_xor]
  rfl

theorem crc8Update_self (c : Byte) : crc8Update c c = 0 := by
  rw [crc8Update_eq, BitVec.xor_self]
  decide

theorem crc8_eq_foldl (bs : List Byte) : crc8 bs = bs.foldl crc8Update 0 := BitVec.xor_zero

theorem foldl_crc8Update_zipWith (bs ds : List Byte) (c e : Byte) (h : bs.length = ds.length) :
    (List.zipWith (fun b d => b ^^^ d) bs ds).foldl crc8Update (c ^^^ e) =
      bs.foldl crc8Update c ^^^ ds.foldl crc8Update e := by
  induction bs generalizing ds c e with
  | nil => rw [List.eq_nil_of_length_eq_zero h.symm]; rfl
  | cons b bs ih =>
    obtain _ | ⟨d, ds⟩ := ds
    · cases h
    · simp only [List.zipWith_cons_cons, List.foldl_cons, crc8Update_xor]
      exact ih ds _ _ (Nat.succ.inj h)

/-- Settles O32: one step is linear in accumulator and byte together, so the fold from 0 = 0 ^^^ 0 is. -/
theorem crcLinear : Obligations.CrcLinear := by
  intro bs ds h
  simp only [crc8_eq_foldl]
  exact foldl_crc8Update_zipWith bs ds 0 0 h

/-! ### Self-check, table and known values (R143 (a), (b), (d) to (g)) -/

/-- Settles O33: the accumulator XORed with itself is 0, and 0 stays 0 through the bit steps. -/
theorem crcSelfCheck : Obligations.CrcSelfCheck := by
  refine ⟨crc8_nil, fun bs => ⟨?_, ?_⟩⟩
  · rw [crc8_eq_foldl, List.foldl_cons, crc8Update_self, ← crc8_eq_foldl]
  · rw [crc8_append_one, crc8Update_self]

/-- The 256 entries of R146, read off R141. -/
theorem crc8Update_zero_eq_crcTable : ∀ x : Byte, crc8Update 0 x = crcTable x := by decide +kernel

/-- Settles O31: the step depends on `c ^^^ b` only, and from 0 it gives the table's entry. -/
theorem crcTableForm : Obligations.CrcTableForm := fun c b =>
  (crc8Update_eq c b).trans (crc8Update_zero_eq_crcTable (c ^^^ b))

/-- Settles O35: evaluation of the checksum on the sequences listed. -/
theorem crcKnownValues : Obligations.CrcKnownValues := by
  unfold Obligations.CrcKnownValues
  decide +kernel

/-! ### The remainder modulo G(x) (R144) -/

section Remainder

variable {A : Type} [CommRing A] (x : A)

theorem bytesEval_append_one (bs : List Byte) (b : Byte) :
    bytesEval x (bs ++ [b]) = bytesEval x bs * x ^ 8 + byteEval x b := by
  simp [bytesEval]

theorem byteEval_shiftLeft_one (c : Byte) :
    byteEval x (c <<< 1) = ∑ i : Fin 7, if c.getLsbD i.val then x ^ (i.val + 1) else 0 := by
  have hbit (i : Fin 7) : (c <<< 1).getLsbD (i.val + 1) = c.getLsbD i.val := by
    simp [show i.val + 1 < 8 by omega, show i.val < 8 by omega]
  rw [byteEval, Fin.sum_univ_succ]
  simp [hbit, -BitVec.getLsbD_shiftLeft]

/-- Multiplication by x is the shift, and the bit shifted out stands for x^8. -/
theorem byteEval_mul_x (c : Byte) :
    byteEval x c * x = byteEval x (c <<< 1) + if c.getLsbD 7 then x ^ 8 else 0 := by
  rw [byteEval_shiftLeft_one, byteEval, Fin.sum_univ_castSucc]
  simp [add_mul, Finset.sum_mul, pow_succ]

variable [CharP A 2]

/-- In characteristic 2 bitwise XOR is addition of the values. -/
theorem byteEval_xor (b d : Byte) : byteEval x (b ^^^ d) = byteEval x b + byteEval x d := by
  simp only [byteEval, ← Finset.sum_add_distrib, BitVec.getLsbD_xor]
  refine Finset.sum_congr rfl fun i _ => ?_
  cases b.getLsbD i.val <;> cases d.getLsbD i.val <;> simp [CharTwo.add_self_eq_zero]

variable {x} (hx : x ^ 8 + x ^ 7 + x ^ 6 + x ^ 4 + x ^ 2 + 1 = 0)

include hx

/-- CRC_POLY is what G(x) leaves of x^8. -/
theorem byteEval_crcPoly : byteEval x crcPoly = x ^ 8 := by
  have h : byteEval x crcPoly = 1 + x ^ 2 + x ^ 4 + x ^ 6 + x ^ 7 := by
    simp [byteEval, Fin.sum_univ_eight, crcPoly]
  rw [h, ← sub_eq_zero, CharTwo.sub_eq_add, ← hx]
  ring

/-- One bit step multiplies the value by x modulo G(x). -/
theorem byteEval_crcShift (c : Byte) : byteEval x (crcShift c) = byteEval x c * x := by
  rw [byteEval_mul_x, crcShift]
  split
  · rw [byteEval_xor, byteEval_crcPoly hx]
  · rw [add_zero]

theorem byteEval_repeat_crcShift (n : Nat) (c : Byte) :
    byteEval x (Nat.repeat crcShift n c) = byteEval x c * x ^ n := by
  induction n with
  | zero => simp [Nat.repeat]
  | succ n ih => rw [Nat.repeat, byteEval_crcShift hx, ih, pow_succ, mul_assoc]

theorem byteEval_crc8Update (c b : Byte) :
    byteEval x (crc8Update c b) = (byteEval x c + byteEval x b) * x ^ 8 := by
  rw [crc8Update, byteEval_repeat_crcShift hx, byteEval_xor]

theorem bytesEval_mul_pow_eight (bs : List Byte) : bytesEval x bs * x ^ 8 = byteEval x (crc8 bs) := by
  induction bs using List.reverseRecOn with
  | nil => simp [bytesEval, byteEval, crc8_nil, crcInit]
  | append_singleton bs b ih => rw [bytesEval_append_one, ih, crc8_append_one, byteEval_crc8Update hx]

end Remainder

/-- Settles O34: appending a byte is one step on both sides, and eight bit steps multiply by x^8 modulo G(x). -/
theorem crcIsPolynomialRemainder : Obligations.CrcIsPolynomialRemainder := by
  intro A _ _ x hx bs
  exact bytesEval_mul_pow_eight hx bs

end Sys2Proof.Machine
end

section
/-! The frame: what ASM writes, what the invariant says of a finished frame, and its read-out in wire order (R151 to
R154, R164). -/

namespace Sys2Proof.Machine

/-! ### ASM -/

/-- Settles O36: the bytes of `assemble` are the frame's fields, and its checksum is the one ASM leaves in CRCA. -/
theorem asmByRule : Obligations.AsmByRule := by
  intro s
  refine ⟨fun hp => ?_, fun hp => ?_⟩
  · rw [exec_asm, if_neg hp]
  · obtain ⟨h0, h1, h2⟩ := assemble_header s.pay (frameChecksum s.pay)
    exact ⟨_, by rw [exec_asm, if_pos hp], rfl, h0, h1, h2, assemble_payload _ _, assemble_crc _ _, rfl⟩

/-! ### A finished frame -/

/-- The tail of an assembled frame is the sequence its checksum covers, followed by the checksum (R152, R153). -/
theorem assemble_toList_drop_two (p : Payload) (c : Byte) :
    (assemble p c).toList.drop 2 = (frameType :: p.toList) ++ [c] := rfl

theorem crc8_assemble_drop_two (p : Payload) : crc8 ((assemble p (frameChecksum p)).toList.drop 2) = 0 := by
  rw [assemble_toList_drop_two]
  exact (crcSelfCheck.2 (frameType :: p.toList)).2

/-- The two bytes of the payload above the 176 packed bits are 0 (R44). -/
theorem pack_last_bytes (cv : FieldVector) : (pack cv)[22] = 0 ∧ (pack cv)[23] = 0 :=
  (packRoundTrip.2 (pack cv)).mp ⟨cv, rfl⟩

/-- Settles O37: in DONE the invariant makes FRM the assembly of a packed payload with its checksum. -/
theorem finishedFrameIsValid : Obligations.FinishedFrameIsValid := by
  intro s hinv hdone
  obtain ⟨hfrm, -⟩ := hinv.frame_current hdone
  obtain ⟨h22, h23⟩ : s.pay[22] = 0 ∧ s.pay[23] = 0 := by
    rw [hinv.payload_current (.inr hdone)]
    exact pack_last_bytes _
  rw [hfrm]
  obtain ⟨h0, h1, h2⟩ := assemble_header s.pay (frameChecksum s.pay)
  exact ⟨h0, h1, h2, (assemble_payload _ _ 22).trans h22, (assemble_payload _ _ 23).trans h23,
    crc8_assemble_drop_two s.pay⟩

/-! ### Read-out in wire order -/

theorem exec_rdf_of_done {s : State} (hdone : s.phase = .done) (k : Fin 28) :
    exec (.rdf ⟨k.val, by omega⟩) s = .next (s.answered (0#8 ++ s.frm[k])) := by
  rw [exec_rdf, if_pos hdone, dif_pos (Nat.le_of_lt_succ k.isLt), BitVec.setWidth_eq_append (by decide)]
  rfl

/-- RDF reads in any order and any number return the bytes they name and change nothing else (R154). -/
theorem execAll_rdf_of_done {s : State} (hdone : s.phase = .done) (ks : List (Fin 28)) :
    execAll (ks.map fun k => Instr.rdf ⟨k.val, by omega⟩) s =
      .next { s with responses := s.responses ++ ks.map fun k => s.err ++ (0#8 ++ s.frm[k]) } := by
  induction ks generalizing s with
  | nil => simp [execAll]
  | cons k ks ih =>
    have htail := ih (s := s.answered (0#8 ++ s.frm[k])) hdone
    rw [List.map_cons, execAll, exec_rdf_of_done hdone]
    simpa [State.answered] using htail

/-- Settles O43: the reads of a list of indices, at all indices in order. -/
theorem frameReadInWireOrder : Obligations.FrameReadInWireOrder := by
  intro s hdone
  have hfrm : s.frm.toList = (List.finRange 28).map fun k => s.frm[k] := by
    apply List.ext_getElem <;> simp
  rw [execAll_rdf_of_done hdone, hfrm, List.map_map]
  rfl

end Sys2Proof.Machine
end

section
/-! Cycle control and read-out (R160 to R164): each path of BEGIN, STAT, RDCH, RDP and RDF. -/

namespace Sys2Proof.Machine

/-- Settles O38: BEGIN's writes are those of `startCycle`. -/
theorem beginByRule : Obligations.BeginByRule := by
  intro s
  exact ⟨startCycle s, exec_begin s, rfl, rfl, fun _ => BitVec.getElem_zero .., rfl, rfl, rfl, rfl⟩

/-- The fields of STAT 0 at their places: PHASE from bit 0, SLOT from bit 3, BPOS from bit 8 (R22). -/
theorem statusWord0_toNat (s : State) :
    (statusWord0 s).toNat = s.bpos.val * 2 ^ 8 + s.slot.index * 2 ^ 3 + (phaseBits s.phase).toNat := by
  have hphase := (phaseBits s.phase).isLt
  have hslot := s.slot.index_le_sixteen
  have hbpos := s.bpos.isLt
  rw [statusWord0, BitVec.toNat_append, ← Nat.shiftLeft_add_eq_or_of_lt hphase, BitVec.toNat_append,
    ← Nat.shiftLeft_add_eq_or_of_lt (BitVec.isLt _), BitVec.toNat_append,
    ← Nat.shiftLeft_add_eq_or_of_lt (BitVec.isLt _)]
  simp only [BitVec.toNat_ofNat, Nat.shiftLeft_eq]
  omega

/-- Settles O39: both words are read from the state as it stands. -/
theorem statByRule : Obligations.StatByRule := by
  intro s
  refine ⟨⟨statusWord0 s, exec_stat false s, ?_⟩, ⟨statusWord1 s, exec_stat true s, fun _ => rfl⟩⟩
  rw [statusWord0_toNat]
  cases s.phase <;> rfl

/-- Settles O40: IDLE and an unwritten channel are the two causes, checked one after the other. -/
theorem rdchByRule : Obligations.RdchByRule := by
  intro s k
  rw [exec_rdch, BitVec.ofNat_toNat]
  refine ⟨fun h => ?_, fun hp hw => ?_⟩
  · by_cases hp : s.phase = .idle
    · rw [if_pos hp]
    · rw [if_neg hp, if_neg (by simp [h.resolve_left hp])]
  · rw [if_neg hp, if_pos hw]

/-- Settles O41: the phase is checked before the index. -/
theorem rdpByRule : Obligations.RdpByRule := by
  intro s k
  rw [exec_rdp]
  refine ⟨fun hpacked hdone => ?_, fun hp hk => ?_, fun hp hk => ?_⟩
  · rw [if_neg (not_or.mpr ⟨hpacked, hdone⟩)]
  · rw [if_pos hp, dif_neg (by omega)]
  · rw [if_pos hp, dif_pos hk, BitVec.ofNat_toNat]

/-- Settles O42: the phase is checked before the index. -/
theorem rdfByRule : Obligations.RdfByRule := by
  intro s k
  rw [exec_rdf]
  refine ⟨fun hp => ?_, fun hp hk => ?_, fun hp hk => ?_⟩
  · rw [if_neg hp]
  · rw [if_pos hp, dif_neg (by omega)]
  · rw [if_pos hp, dif_pos hk, BitVec.ofNat_toNat]

end Sys2Proof.Machine
end

section
/-! The admission table (R165) and the phase graph (R167), for all twelve operations at once. -/

namespace Sys2Proof.Machine

/-! ### The admission table -/

/-- Phase `p` with no fault yet, every channel written and holding 0: no state-dependent check finds a cause here. -/
def allWritten (p : Phase) : State := { State.reset with phase := p, chv := BitVec.allOnes 16 }

theorem allWritten_chv_get (p : Phase) (k : Fin 16) : (allWritten p).chv[k] = true :=
  BitVec.getElem_allOnes k.val k.isLt

theorem allWritten_ch_get (p : Phase) (k : Fin 16) : (allWritten p).ch[k] = 0 :=
  Vector.getElem_replicate k.isLt

theorem stateChecks_allWritten (i : Instr) (p : Phase) : stateChecks i (allWritten p) = 0 := by
  cases i with
  | rdch k => exact if_pos (allWritten_chv_get p k)
  | pack =>
    refine (stateChecks_pack_eq_zero _).mpr fun k => ⟨allWritten_chv_get p k, ?_⟩
    rw [allWritten_ch_get]
    decide
  | beginCycle | qax | ldch | btn | bend | fill | asm | rdp | rdf | stat => rfl

theorem faultMask_allWritten {i : Instr} {p : Phase} (hwf : i.WellFormed = true) (hadm : admits i p = true) :
    faultMask i (allWritten p) = 0 := by
  have hphase : admits i (allWritten p).phase = true := hadm
  simp [faultMask, hphase, hwf, stateChecks_allWritten]

theorem completed_err_eq_zero {s : State} (h : s.err = 0) (i : Instr) : (completed i s).err = 0 := by
  by_cases hi : i = .beginCycle
  · subst hi
    rfl
  · rw [completed_err hi, h]

/-- Settles O44: admission is the first check, and in `allWritten p` none of the later ones finds a cause. -/
theorem admissionTable : Obligations.AdmissionTable := by
  refine ⟨fun i s hadm => ?_, fun i p hwf hadm => ?_⟩
  · rw [exec_eq, faultMask_of_not_admits hadm, if_neg (by decide)]
  · refine ⟨allWritten p, completed i (allWritten p), readData i (allWritten p), rfl, rfl, ?_,
      completed_err_eq_zero rfl i⟩
    rw [exec_eq, if_pos (faultMask_allWritten hwf hadm)]

/-! ### The phase graph -/

/-- Only BEGIN, PACK and ASM have an arrow of their own (R167). -/
theorem completed_phase {i : Instr} (hbegin : i ≠ .beginCycle) (hpack : i ≠ .pack) (hasm : i ≠ .asm) (s : State) :
    (completed i s).phase = s.phase := by
  cases i with
  | beginCycle => exact absurd rfl hbegin
  | pack => exact absurd rfl hpack
  | asm => exact absurd rfl hasm
  | qax | ldch | btn | bend | fill => exact (completed_frame rfl s).phase
  | rdch | rdp | rdf | stat => rfl

/-- The arrows an operation can take, by whether it faults and by which it is. -/
theorem exec_phase_cases {i : Instr} {s t : State} (h : exec i s = .next t) :
    (i = .beginCycle ∧ t.phase = .map) ∨ (i = .pack ∧ s.phase = .map ∧ t.phase = .packed) ∨
    (i = .asm ∧ s.phase = .packed ∧ t.phase = .done) ∨
    (t.phase = .rej ∧ ∃ m : BitVec 4, m ≠ 0 ∧ t = s.faulted m) ∨
    (i ≠ .beginCycle ∧ i ≠ .pack ∧ i ≠ .asm ∧ t.phase = s.phase) := by
  obtain ⟨hm, rfl⟩ | ⟨hm, rfl⟩ := exec_next_cases h
  · exact .inr (.inr (.inr (.inl ⟨rfl, _, hm, rfl⟩)))
  · have hadm := admits_of_faultMask_eq_zero hm
    by_cases hbegin : i = .beginCycle
    · subst hbegin
      exact .inl ⟨rfl, rfl⟩
    by_cases hpack : i = .pack
    · subst hpack
      exact .inr (.inl ⟨rfl, of_decide_eq_true hadm, rfl⟩)
    by_cases hasm : i = .asm
    · subst hasm
      exact .inr (.inr (.inl ⟨rfl, of_decide_eq_true hadm, rfl⟩))
    exact .inr (.inr (.inr (.inr ⟨hbegin, hpack, hasm, completed_phase hbegin hpack hasm s⟩)))

/-- Settles O45: a step takes the arrow of its event: waiting, reset, an operation's, or the E_OP fault's. -/
theorem phaseGraph : Obligations.PhaseGraph := by
  refine ⟨fun i s t => exec_phase_cases, fun s t hstep => ?_⟩
  obtain ⟨-, e⟩ | ⟨rest, hin, e⟩ | ⟨w, rest, i, -, -, e⟩ | ⟨w, rest, err, -, -, e⟩ := step_cases s <;>
    rw [e] at hstep
  · cases hstep
    exact .inl rfl
  · cases hstep
    have hreset : s.input.head? = some .reset := by rw [hin]; rfl
    exact .inr (.inr (.inr (.inr (.inr ⟨rfl, hreset⟩))))
  · obtain ⟨-, hmap⟩ | ⟨-, hpack⟩ | ⟨-, hasm⟩ | ⟨hrej, -⟩ | ⟨-, -, -, hsame⟩ := exec_phase_cases hstep
    · exact .inr (.inl hmap)
    · exact .inr (.inr (.inl hpack))
    · exact .inr (.inr (.inr (.inl hasm)))
    · exact .inr (.inr (.inr (.inr (.inl hrej))))
    · exact .inl hsame
  · cases hstep
    exact .inr (.inr (.inr (.inr (.inl rfl))))

end Sys2Proof.Machine
end

section
/-! The canonical cycle (R166): BEGIN, the axes, the button stream of R108, and then PACK and ASM, each part from the
state the part before it leaves. -/

namespace Sys2Proof.Machine

theorem execAll_append {is : List Instr} {s t : State} (h : execAll is s = .next t) (js : List Instr) :
    execAll (is ++ js) s = execAll js t := by
  induction is generalizing s with
  | nil =>
    cases h
    rfl
  | cons i is ih =>
    rw [List.cons_append, execAll]
    rw [execAll] at h
    cases hi : exec i s with
    | next u =>
      rw [hi] at h
      exact ih h
    | fault | refused =>
      rw [hi] at h
      cases h

theorem execAll_pair {i j : Instr} {s t u : State} (hi : exec i s = .next t) (hj : exec j t = .next u) :
    execAll [i, j] s = .next u := by
  simp only [execAll, hi, hj]

/-! ### The axes -/

/-- The channel of an axis (R63 (a)). -/
def axisChannel (k : Fin 6) : Fin 16 := ⟨k.val, by omega⟩

theorem axisChannel_injective : Function.Injective axisChannel := by
  decide

theorem quantize_setWidth_setWidth (v : BitVec 16) : ((quantize v).setWidth 12).setWidth 11 = quantize v := by
  rw [BitVec.setWidth_setWidth_of_le _ (by decide), BitVec.setWidth_eq]

theorem exec_qax_axisChannel {s : State} (hmap : s.phase = .map) (k : Fin 6) (v : BitVec 16) :
    exec (.qax (axisChannel k) v) s = .next ((writeCh (axisChannel k) ((quantize v).setWidth 12) s).answered 0) := by
  have hk : (axisChannel k).val ≤ 5 := Nat.le_of_lt_succ k.isLt
  rw [exec_qax, if_pos hmap, if_pos hk]

/-- From `s`, the stream led to `t` by quantizing the axes `taken`. -/
structure AxesTaken (axes : Vector (BitVec 16) 6) (s : State) (taken : List (Fin 6)) (t : State) : Prop where
  frame : t = { s with ch := t.ch, chv := t.chv, responses := t.responses }
  axis : ∀ k ∈ taken, t.ch[axisChannel k] = (quantize axes[k]).setWidth 12 ∧ t.chv[axisChannel k] = true

section Axes

variable {axes : Vector (BitVec 16) 6} {s t : State} {taken : List (Fin 6)}

theorem AxesTaken.start (axes : Vector (BitVec 16) 6) (s : State) : AxesTaken axes s [] s where
  frame := rfl
  axis := by simp

theorem AxesTaken.phase_map (h : AxesTaken axes s taken t) (hmap : s.phase = .map) : t.phase = .map := by
  rw [h.frame]
  exact hmap

theorem AxesTaken.take (h : AxesTaken axes s taken t) (k : Fin 6) :
    AxesTaken axes s (taken ++ [k])
      ((writeCh (axisChannel k) ((quantize axes[k]).setWidth 12) t).answered 0) where
  frame := by
    rw [h.frame]
    rfl
  axis l hl := by
    have hw := writeCh_channelWritten t (axisChannel k) ((quantize axes[k]).setWidth 12)
    rw [State.answered_ch, State.answered_chv]
    by_cases hlk : l = k
    · subst hlk
      exact ⟨hw.value, hw.valid⟩
    · obtain ⟨hch, hchv⟩ := hw.others _ (axisChannel_injective.ne hlk)
      rw [hch, hchv]
      exact h.axis l (by simpa [hlk] using hl)

theorem AxesTaken.execAll_qax (h : AxesTaken axes s taken t) (hmap : s.phase = .map) (ks : List (Fin 6)) :
    ∃ u, execAll (ks.map fun k => .qax (axisChannel k) axes[k]) t = .next u ∧ AxesTaken axes s (taken ++ ks) u := by
  induction ks generalizing taken t with
  | nil => exact ⟨t, rfl, by rwa [List.append_nil]⟩
  | cons k ks ih =>
    rw [List.map_cons, execAll, exec_qax_axisChannel (h.phase_map hmap), List.append_cons]
    exact ih (h.take k)

end Axes

/-! ### The vector PACK finds -/

/-- What BEGIN, the axes and the button stream leave: every channel written, with its value by R80 or R100. -/
structure VectorMapped (axes : Vector (BitVec 16) 6) (left right : List Bool) (t : State) : Prop where
  phase : t.phase = .map
  err : t.err = 0
  axis : ∀ k : Fin 6, t.ch[axisChannel k] = (quantize axes[k]).setWidth 12 ∧ t.chv[axisChannel k] = true
  bank : ∀ j : Fin 10, t.ch[slotChannel j] = mapButtons left right j.val ∧ t.chv[slotChannel j] = true

/-- The canonical cycle up to PACK (R166). -/
def mappingInstrs (axes : Vector (BitVec 16) 6) (left right : List Bool) : List Instr :=
  [Instr.beginCycle] ++ ((List.finRange 6).map (fun k => Instr.qax (axisChannel k) axes[k]) ++
    (left.map Instr.btn ++ [Instr.bend] ++ right.map Instr.btn ++ [Instr.bend, Instr.fill]))

theorem execAll_mappingInstrs (axes : Vector (BitVec 16) 6) (left right : List Bool) (s : State) :
    ∃ t, execAll (mappingInstrs axes left right) s = .next t ∧ VectorMapped axes left right t := by
  have hstart := AxesTaken.start axes ((startCycle s).answered 0)
  obtain ⟨u, hu, hax⟩ := hstart.execAll_qax rfl (List.finRange 6)
  have hslot : u.slot = .free 0 := by rw [hax.frame]; rfl
  have hbpos : u.bpos = 0 := by rw [hax.frame]; rfl
  have hmask : u.mask = 0 := by rw [hax.frame]; rfl
  have herr : u.err = 0 := by rw [hax.frame]; rfl
  obtain ⟨t, ht, hbank, hbelow, -, -, -, hframe⟩ :=
    streamedButtonsMatchReference u left right (hax.phase_map rfl) hslot hbpos hmask
  refine ⟨t, ?_, ?_, ?_, fun k => ?_, hbank⟩
  · rw [mappingInstrs, execAll_append (t := (startCycle s).answered 0) rfl, execAll_append hu, ht]
  · rw [hframe]
    exact hax.phase_map rfl
  · rw [hframe]
    exact herr
  · obtain ⟨hch, hchv⟩ := hbelow (axisChannel k) k.isLt
    rw [hch, hchv]
    exact hax.axis k (List.mem_finRange k)

theorem forall_channel_iff {p : Fin 16 → Prop} :
    (∀ k, p k) ↔ (∀ k, p (axisChannel k)) ∧ ∀ j, p (slotChannel j) := by
  refine ⟨fun h => ⟨fun k => h _, fun j => h _⟩, fun ⟨haxis, hbank⟩ k => ?_⟩
  by_cases hk : k.val < 6
  · exact haxis ⟨k.val, hk⟩
  · have hslot : slotChannel ⟨k.val - 6, by omega⟩ = k := Fin.ext (Nat.add_sub_of_le (Nat.le_of_not_lt hk))
    exact hslot ▸ hbank _

/-! ### PACK and ASM -/

section Ending

variable {axes : Vector (BitVec 16) 6} {left right : List Bool} {t : State}

theorem VectorMapped.written (h : VectorMapped axes left right t) (k : Fin 16) : t.chv[k] = true :=
  forall_channel_iff (p := fun k => t.chv[k] = true).mpr ⟨fun k => (h.axis k).2, fun j => (h.bank j).2⟩ k

/-- An axis always fits the field, so only a bank can exceed it (R109 (b)). -/
theorem VectorMapped.fits (h : VectorMapped axes left right t)
    (hfit : ∀ j : Fin 10, (mapButtons left right j.val).toNat ≤ 2047) (k : Fin 16) : t.ch[k].toNat ≤ 2047 := by
  refine forall_channel_iff (p := fun k => t.ch[k].toNat ≤ 2047).mpr ⟨fun k => ?_, fun j => ?_⟩ k
  · rw [(h.axis k).1, quantize_setWidth_toNat]
    exact Nat.le_of_lt_succ (quantize axes[k]).isLt
  · rw [(h.bank j).1]
    exact hfit j

theorem VectorMapped.field_axis (h : VectorMapped axes left right t) (k : Fin 6) :
    (channelFields t.ch)[axisChannel k] = quantize axes[k] := by
  rw [channelFields_get, (h.axis k).1, quantize_setWidth_setWidth]

theorem VectorMapped.field_bank (h : VectorMapped axes left right t)
    (hfit : ∀ j : Fin 10, (mapButtons left right j.val).toNat ≤ 2047) (j : Fin 10) :
    (channelFields t.ch)[slotChannel j].toNat = (mapButtons left right j.val).toNat := by
  rw [channelFields_toNat _ _ (h.fits hfit _), (h.bank j).1]

/-- With every bank in the field PACK and ASM complete, and FRM is the frame of the fields (R125, R153). -/
theorem VectorMapped.succeeds (h : VectorMapped axes left right t)
    (hfit : ∀ j : Fin 10, (mapButtons left right j.val).toNat ≤ 2047) :
    ∃ u, execAll [.pack, .asm] t = .next u ∧ u.succeeded ∧ u.err = 0 ∧ u.frm = frameOf (channelFields t.ch) := by
  have hchecks := (stateChecks_pack_eq_zero t).mpr fun k => ⟨h.written k, h.fits hfit k⟩
  have hpack : exec .pack t = .next ((completed .pack t).answered 0) := by
    rw [exec_pack, if_pos h.phase, if_pos hchecks, completed]
  have hasm : exec .asm ((completed .pack t).answered 0) =
      .next ((completed .asm ((completed .pack t).answered 0)).answered 0) :=
    (exec_asm _).trans (if_pos rfl)
  exact ⟨_, execAll_pair hpack hasm, rfl, h.err, rfl⟩

/-- A bank that exceeds the field is PACK's E_DOM, and ASM in REJ adds E_SEQ (R125, R153). -/
theorem VectorMapped.rejects (h : VectorMapped axes left right t)
    (hwide : ∃ j : Fin 10, 2047 < (mapButtons left right j.val).toNat) :
    ∃ u, execAll [.pack, .asm] t = .next u ∧ u.rejected ∧ u.err = 0xA := by
  obtain ⟨j, hj⟩ := hwide
  have hbank : 2047 < t.ch[slotChannel j].toNat := by rwa [(h.bank j).1]
  obtain ⟨-, -, hdom, -⟩ := packByRule t
  have hpack : exec .pack t = .next (t.faulted 0x2) := hdom h.phase h.written ⟨_, hbank⟩
  have hasm : exec .asm (t.faulted 0x2) = .next ((t.faulted 0x2).faulted 0x8) :=
    (asmByRule _).1 (by rw [State.faulted_phase]; decide)
  refine ⟨_, execAll_pair hpack hasm, rfl, ?_⟩
  rw [State.faulted_err, State.faulted_err, h.err]
  decide

end Ending

theorem canonicalInstrs_eq (axes : Vector (BitVec 16) 6) (left right : List Bool) :
    [Instr.beginCycle] ++ (List.finRange 6).map (fun k => Instr.qax ⟨k.val, by omega⟩ axes[k]) ++
      left.map Instr.btn ++ [Instr.bend] ++ right.map Instr.btn ++
        [Instr.bend, Instr.fill, Instr.pack, Instr.asm] =
    mappingInstrs axes left right ++ [Instr.pack, Instr.asm] := by
  simp [mappingInstrs, axisChannel]

/-- Settles O57: the vector PACK finds fits the field exactly when every bank does. -/
theorem canonicalCycle : Obligations.CanonicalCycle := by
  intro s axes left right
  obtain ⟨t, ht, hmapped⟩ := execAll_mappingInstrs axes left right s
  rw [canonicalInstrs_eq, execAll_append ht]
  by_cases hfit : ∀ j : Fin 10, (mapButtons left right j.val).toNat ≤ 2047
  · obtain ⟨u, hu, hdone, herr, hfrm⟩ := hmapped.succeeds hfit
    refine ⟨u, hu, fun _ => ⟨_, hdone, herr, hfrm, hmapped.field_axis, hmapped.field_bank hfit⟩, ?_⟩
    rintro ⟨j, hj⟩
    exact absurd (hfit j) (by omega)
  · have hwide : ∃ j : Fin 10, 2047 < (mapButtons left right j.val).toNat := by
      simpa only [not_forall, not_le] using hfit
    obtain ⟨u, hu, hrej⟩ := hmapped.rejects hwide
    exact ⟨u, hu, fun h => absurd h hfit, fun _ => hrej⟩

end Sys2Proof.Machine
end

section
/-! Exceptions: the illegal word (R64, R184), the check order of an operation (R187, R188), and the rejected phase,
which only BEGIN and reset leave (R189). -/

namespace Sys2Proof.Machine

/-! ### Stage 1: the illegal word -/

theorem decode_error_of_unmatched {w : CommandWord} (h : ∀ r ∈ opcodeTable, w &&& r.mask ≠ r.pattern) :
    ∃ e, decode w = .error e := by
  rcases hd : decode w with e | i
  · exact ⟨e, rfl⟩
  · obtain ⟨r, hr, -, hm⟩ := encode_matches_row i
    rw [encode_of_decode hd] at hm
    exact absurd hm (h r hr)

/-- Settles O5: a word that decodes matches its operation's row, so this one is refused by the decoder. -/
theorem unmatchedWordFaults : Obligations.UnmatchedWordFaults := by
  intro s w rest h
  obtain ⟨e, hd⟩ := decode_error_of_unmatched h
  exact step_of_decode_error (s := { s with input := .command w :: rest }) rfl hd

/-- Settles O6: waiting, reset, an operation and an illegal word each have a next state. -/
theorem stepNeverStops : Obligations.StepNeverStops := exists_step_next

/-! ### Stages 2 to 4: the operation -/

/-- An operation that completes does not reject: BEGIN, PACK and ASM go elsewhere, the others keep PHASE (R167). -/
theorem rejected_of_completed_rejected {i : Instr} {s : State} (h : (completed i s).rejected) : s.rejected := by
  cases i with
  | beginCycle | pack | asm => cases h
  | qax | ldch | btn | bend | fill => exact (completed_frame rfl s).phase.symm.trans h
  | rdch | rdp | rdf | stat => exact h

theorem completed_err_eq_ite (i : Instr) (s : State) :
    (completed i s).err = if i = .beginCycle then 0 else s.err := by
  split
  case isTrue hi =>
    subst hi
    rfl
  case isFalse hi => exact completed_err hi s

/-- Settles O46: the writes and the data of the operation are the witnesses when no stage finds a cause. -/
theorem faultsFollowCheckOrder : Obligations.FaultsFollowCheckOrder := by
  refine fun i s => ⟨fun hm => ?_, fun hm => ⟨completed i s, readData i s, ?_, completed_responses i s,
    completed_err_eq_ite i s, rejected_of_completed_rejected, readsOut_of_readData_ne_zero,
    fun hi => completed_of_readsOut hi s⟩⟩
  · rw [exec_eq, if_neg hm]
  · rw [exec_eq, if_pos hm]

/-! ### The rejected phase -/

theorem exec_input {i : Instr} {s t : State} (h : exec i s = .next t) : t.input = s.input := by
  obtain ⟨-, rfl⟩ | ⟨-, rfl⟩ := exec_next_cases h
  · rfl
  · exact completed_input i s

/-- A step takes the next event from the stream and adds none (R67). -/
theorem step_input {s t : State} (h : step s = .next t) : t.input = s.input.tail := by
  obtain ⟨hin, e⟩ | ⟨rest, hin, e⟩ | ⟨w, rest, i, hin, -, e⟩ | ⟨w, rest, err, hin, -, e⟩ := step_cases s <;>
    rw [e] at h <;> rw [hin]
  · cases h
    exact hin
  · cases h
    rfl
  · exact exec_input h
  · cases h
    rfl

/-- BEGIN has the only arrow out of REJ among the operations: PACK's starts in MAP and ASM's in PACKED (R167). -/
theorem exec_keeps_rejected {i : Instr} {s t : State} (hs : s.rejected) (hi : i ≠ .beginCycle)
    (h : exec i s = .next t) : t.rejected := by
  obtain ⟨hbegin, -⟩ | ⟨-, hmap, -⟩ | ⟨-, hpacked, -⟩ | ⟨hrej, -⟩ | ⟨-, -, -, hsame⟩ := exec_phase_cases h
  · exact absurd hbegin hi
  · cases hs.symm.trans hmap
  · cases hs.symm.trans hpacked
  · exact hrej
  · exact hsame.trans hs

/-- Rejected, with neither BEGIN nor a reset to come. -/
structure State.RejectedForGood (s : State) : Prop where
  rejected : s.rejected
  noExit : ∀ e ∈ s.input, e ≠ .reset ∧ e ≠ .command 0x100000

theorem State.RejectedForGood.step_rejected {s t : State} (h : s.RejectedForGood) (hstep : step s = .next t) :
    t.rejected := by
  obtain ⟨-, e⟩ | ⟨rest, hin, -⟩ | ⟨w, rest, i, hin, hd, e⟩ | ⟨w, rest, err, -, -, e⟩ := step_cases s
  · cases e.symm.trans hstep
    exact h.rejected
  · exact absurd rfl (h.noExit .reset (by simp [hin])).1
  · have hi : i ≠ .beginCycle := by
      rintro rfl
      have hw := (h.noExit (.command w) (by simp [hin])).2
      exact hw (congrArg _ (eq_of_decode_begin hd))
    exact exec_keeps_rejected (s := { s with input := rest }) h.rejected hi (e.symm.trans hstep)
  · cases e.symm.trans hstep
    rfl

theorem State.RejectedForGood.step {s t : State} (h : s.RejectedForGood) (hstep : step s = .next t) :
    t.RejectedForGood where
  rejected := h.step_rejected hstep
  noExit e he := h.noExit e (List.mem_of_mem_tail (step_input hstep ▸ he))

/-- What every step keeps, every run keeps. -/
theorem runSteps_keeps {P : State → Prop} (hP : ∀ s t, P s → step s = .next t → P t) {n : Nat} {s t : State}
    (hs : P s) (h : runSteps n s = .next t) : P t := by
  induction n generalizing s with
  | zero =>
    cases h
    exact hs
  | succ n ih =>
    obtain ⟨u, hu⟩ := exists_step_next s
    rw [runSteps, hu] at h
    exact ih (hP s u hs hu) h

/-- Settles O49: every step keeps the rejection and takes events away only. -/
theorem noFrameAfterFault : Obligations.NoFrameAfterFault := by
  intro n s t hs hin h
  have ht : t.RejectedForGood := runSteps_keeps (fun _ _ hr => hr.step) ⟨hs, hin⟩ h
  exact ht.rejected

end Sys2Proof.Machine
end

section
/-! The two events that are not commands: a reset (R25, R200), and none (R201). -/

namespace Sys2Proof.Machine

/-- Settles O2: the step puts the reset values for what the core held and leaves the ports to `rest`. -/
theorem resetEventGivesResetState : Obligations.ResetEventGivesResetState := by
  intro s rest
  have hstep := step_of_reset (s := { s with input := .reset :: rest }) rfl
  obtain ⟨hphase, herr, -, hslot, hbpos, hmask⟩ := resetStateValues
  have hchv : State.reset.chv = 0 := rfl
  exact ⟨_, hstep, hphase, herr, hchv, hslot, hbpos, hmask, rfl, rfl⟩

/-- Settles O3: an empty stream gives no event to take. -/
theorem waitsWithoutCommand : Obligations.WaitsWithoutCommand :=
  fun _ hin => step_of_no_input hin

end Sys2Proof.Machine
end
